-- ==== Sys2Proof/Word.lean ====
section
/-! DEFINITION. The widths of the spec's values (00_scope R6): a byte, a 16-bit word, a 32-bit request or response word. -/

namespace Sys2Proof

/-- A byte on the wire (R6). -/
abbrev Byte := BitVec 8

/-- A RawWord, a command code or the content of a word register (R6, R11). -/
abbrev Word := BitVec 16

/-- A request word, and the `data` of a response (R50, R55). -/
abbrev Req := BitVec 32

end Sys2Proof
end

