-- ==== Sys2Proof/Syntax.lean ====
section
/-! DEFINITION. The eight operations, one constructor per row of the opcode table (30_encoding R51, R52). -/

namespace Sys2Proof

/-- A request as the decoder delivers it: the operation and the fields its format names. -/
inductive Instr where
  /-- `CMD s`: send command number `s` to the transport (R82). -/
  | cmd (s : BitVec 3)
  /-- `CRC a, b`: compute the checksum of two bytes (R93). -/
  | crc (a b : Byte)
  /-- `CHK hi, lo, c`: check one 3-byte group (R95). -/
  | chk (hi lo c : Byte)
  /-- `RDW n`: read and check a frame of `n` words (R103). -/
  | rdw (n : BitVec 3)
  /-- `GET r`: read register number `r` (R105). -/
  | get (r : BitVec 3)
  /-- `IDD`: decode `W[0]` as a device ID word (R117). -/
  | idd
  /-- `CVT`: convert `W[0]` to a temperature (R122). -/
  | cvt
  /-- `CVH`: convert `W[1]` to a relative humidity (R123). -/
  | cvh
deriving DecidableEq, Repr

end Sys2Proof
end

