-- ==== Sys2Proof/Decode.lean ====
section
/-! DEFINITION. Decoding a request word by steps 1 to 3 of the decode order (30_encoding R50 to R53), and encoding by the
opcode map (30_encoding section 7, R66). Step 4, the operand's range, is tested where the operation is executed, so that an
operation is selected by `op` alone, as R53 says. -/

namespace Sys2Proof

/-- The operand formats of R52. -/
inductive Format where
  | n
  | s
  | b2
  | b3
deriving DecidableEq, Repr

/-- Why a request word is no instruction (R53): steps 1, and 2 or 3. -/
inductive DecodeError where
  | illop
  | illarg
deriving DecidableEq, Repr

/-- `op`, bits 31:28 (R50). -/
def opField (w : Req) : BitVec 4 := w.extractLsb' 28 4

/-- `rsv`, bits 27:24 (R50). -/
def rsvField (w : Req) : BitVec 4 := w.extractLsb' 24 4

/-- The operand of format S, bits 2:0 (R52). -/
def selField (w : Req) : BitVec 3 := w.extractLsb' 0 3

/-- The byte in bits 23:16 of a B3 operand (R52). -/
def byte2 (w : Req) : Byte := w.extractLsb' 16 8

/-- The byte in bits 15:8 of a B2 or B3 operand (R52). -/
def byte1 (w : Req) : Byte := w.extractLsb' 8 8

/-- The byte in bits 7:0 of a B2 or B3 operand (R52). -/
def byte0 (w : Req) : Byte := w.extractLsb' 0 8

/-- Every bit of `arg` that the format does not name is 0 (R52). -/
def reservedClear (w : Req) : Format → Bool
  | .n => w.extractLsb' 0 24 == 0
  | .s => w.extractLsb' 3 21 == 0
  | .b2 => w.extractLsb' 16 8 == 0
  | .b3 => true

/-- The row of the opcode map that `op` selects, with the operands as they stand; none for `op` 0 and 9 to 15 (R51, R52). -/
def tableRow (w : Req) : Option (Format × Instr) :=
  match (opField w).toNat with
  | 1 => some (.s, .cmd (selField w))
  | 2 => some (.b2, .crc (byte1 w) (byte0 w))
  | 3 => some (.b3, .chk (byte2 w) (byte1 w) (byte0 w))
  | 4 => some (.s, .rdw (selField w))
  | 5 => some (.s, .get (selField w))
  | 6 => some (.n, .idd)
  | 7 => some (.n, .cvt)
  | 8 => some (.n, .cvh)
  | _ => none

/-- Steps 1 to 3 of R53, in that order. -/
def decode (w : Req) : Except DecodeError Instr :=
  match tableRow w with
  | none => .error .illop
  | some (f, i) =>
    if rsvField w ≠ 0 then .error .illarg
    else if reservedClear w f = false then .error .illarg
    else .ok i

/-- A request word: `op`, `rsv` zero, and the operand field (30_encoding R50). -/
def requestWord (op : BitVec 4) (arg : BitVec 24) : Req := op ++ 0#4 ++ arg

/-- The request word of an instruction, field by field from the opcode map of 30_encoding section 7. -/
def encode : Instr → Req
  | .cmd s => requestWord 1 (0#21 ++ s)
  | .crc a b => requestWord 2 (0#8 ++ a ++ b)
  | .chk hi lo c => requestWord 3 (hi ++ lo ++ c)
  | .rdw n => requestWord 4 (0#21 ++ n)
  | .get r => requestWord 5 (0#21 ++ r)
  | .idd => requestWord 6 0
  | .cvt => requestWord 7 0
  | .cvh => requestWord 8 0

/-- The instruction read from a request given as the `nbits` low bits of `w`; a request is one 32-bit word (R68). -/
def decodeTableWord (nbits w : Nat) : Option Instr :=
  match decode (BitVec.ofNat 32 (w % 2 ^ nbits)) with
  | .ok i => some i
  | .error _ => none

end Sys2Proof
end

