-- ==== Sys2Proof/Config.lean ====
section
/-! DEFINITION. What the spec leaves open for the whole machine: the transport's answers that no state lists, and the host's
open parameter. Each is opaque, so a proof holds for every value of it. -/

namespace Sys2Proof.Config

/-- `MAXW`, the largest word count `RDW` accepts: 2 for this hardware (00_scope R4). -/
def maxW : Nat := 2

/-- The transport's answer to the write that is its `n`-th call, when the state lists none: one free bit
(20_memory R30, R45, U1; log entry 2). -/
opaque busWriteOk : Nat → Bool

/-- Whether the read that is the transport's `n`-th call reports OK, when the state lists no answer: one free bit
(20_memory R31, R45, U2; log entry 2). -/
opaque busReadOk : Nat → Bool

/-- Byte `i` of the OK answer to the read that is the transport's `n`-th call, when the state lists no answer: a free byte
(20_memory R31, R45, U2; log entry 2). -/
opaque busReadByte : Nat → Nat → Byte

/-- `SETUP_WAKE_RESET_FATAL`: whether a failed WakeUp or SoftReset during setup is fatal, an open parameter of the host
(44_host_sequences R134, U12; log entry 6). -/
opaque setupWakeResetFatal : Bool

end Sys2Proof.Config
end

