-- ==== Sys2Proof/Machine/State.lean ====
section
/-! DEFINITION. The state of the machine as plain data: the block (10_state R10), the two transport calls and their answers
(20_memory R30, R31), the response (30_encoding R55), and the host around the block (44_host_sequences R130). -/

namespace Sys2Proof.Machine

/-- The error codes of a response; these seven are all there are (60_exceptions R160). -/
inductive ErrCode where
  | none
  | illop
  | illarg
  | noword
  | busw
  | busr
  | crc
deriving DecidableEq, Repr

/-- The pair the host receives for a request (30_encoding R55). -/
structure Response where
  err : ErrCode
  data : Req
deriving DecidableEq, Repr

/-- The block's registers (10_state R10); `none` is the spec's "no value" (R13). -/
structure Block where
  /-- `W[0]` (R11). -/
  w0 : Option Word
  /-- `W[1]` (R11). -/
  w1 : Option Word
  /-- `NW` (R14). -/
  nw : BitVec 2
  /-- `CRCC` (R15). -/
  crcc : Option Byte
  /-- `CRCR` (R15). -/
  crcr : Option Byte
deriving DecidableEq, Repr

/-- The three bytes of one RawWord on the wire, in the order received (30_encoding R59). -/
structure Group where
  hi : Byte
  lo : Byte
  crc : Byte
deriving DecidableEq, Repr

/-- A call of the transport (20_memory R30, R31). -/
inductive BusCall where
  | write (register payload : Byte)
  | read (len : Nat)
deriving DecidableEq, Repr

/-- An answer to a read that the environment has ready: not OK, or OK with bytes for the longest read; a read of 3 bytes takes
the first three. An OK answer of the wrong length cannot be written (20_memory R35; log entry 4). -/
inductive ReadAnswer where
  | notOk
  | ok (bytes : Vector Byte 6)
deriving DecidableEq, Repr

/-- What one read call delivers: not OK, or OK with the bytes asked for (20_memory R31). -/
inductive BusReply where
  | notOk
  | ok (bytes : List Byte)
deriving DecidableEq, Repr

/-- The transport as the block and its environment see it (20_memory R30, R31, R45). -/
structure Bus where
  /-- The calls the block has made, oldest first (R39). -/
  calls : List BusCall
  /-- The coming answers to writes; when none is listed the answer is a free value. -/
  writeAnswers : List Bool
  /-- The coming answers to reads; when none is listed the answer is a free value. -/
  readAnswers : List ReadAnswer
  /-- The model's own counter: how many calls have been answered (log entry 2). -/
  draws : Nat
deriving DecidableEq, Repr

/-- DeviceVariant (44_host_sequences R130). -/
inductive Variant where
  | shtc1
  | shtc3
  | unknown
deriving DecidableEq, Repr

/-- What the host's task does next: nothing, or the request of one step of setup (R132), of a tick (R136 to R138) or of its
completion (R140 to R142). -/
inductive Phase where
  | idle
  | setupWake
  | setupReset
  | setupReadId
  | setupRead
  | setupDecode
  /-- Setup has the variant and next reads the raw word. -/
  | setupIdentity (v : Variant)
  | tickReset
  | tickWake
  | tickPoll
  | readFrame
  | convertTemp
  /-- The completion has the temperature's pattern and next asks for the humidity. -/
  | convertHum (temp : Req)
  | sleep
deriving DecidableEq, Repr

/-- The data of one log line (44_host_sequences R145). -/
inductive LogLine where
  /-- The resolved model and the raw ID word (R135). -/
  | identified (v : Variant) (id : Word)
  | commandFailure
  /-- The computed and the received checksum (R166). -/
  | crcMismatch (computed received : Byte)
  | readFailure
  /-- The model and the failure status of the configuration dump (R145, R148). -/
  | configDump (v : Option Variant) (failed : Bool)
deriving DecidableEq, Repr

/-- The state the host owns (44_host_sequences R130), with what it has published and logged (R144, R145). -/
structure HostState where
  /-- `VARIANT`; `none` is "not set". -/
  variant : Option Variant
  /-- `IDENTITY`; `none` is "not set". -/
  identity : Option Word
  /-- `WARN`. -/
  warn : Bool
  /-- `FAILED`. -/
  failed : Bool
  /-- The pending completion with the milliseconds it must still wait (R139); `PENDING` is "some". -/
  timer : Option Nat
  phase : Phase
  /-- The temperature sink: absent, or what was published to it, oldest first (R144). -/
  tempSink : Option (List Req)
  /-- The humidity sink, likewise. -/
  humSink : Option (List Req)
  log : List LogLine
deriving DecidableEq, Repr

/-- What the outside does next; the events of a run stand in the script (00_scope R9, 10_state R18, 44_host_sequences R150). -/
inductive Event where
  /-- A host hands the block a request (R8, R150). -/
  | request (w : Req)
  /-- The block is reset between two requests (70_reset R185). -/
  | reset
  /-- The block is reset during a request, before or after its transport call (R185, U9). -/
  | abort (w : Req) (called : Bool)
  /-- Initialization starts the Resolver (R132). -/
  | setup
  /-- The schedule starts a tick of the Controller (R136). -/
  | tick
  /-- Milliseconds pass (R139). -/
  | elapse (ms : Nat)
  /-- The host's task issues the request of its current step (R132 to R142). -/
  | proceed
  /-- The configuration dump is asked for (R145). -/
  | dump
deriving DecidableEq, Repr

/-- The whole machine. -/
structure State where
  block : Block
  /-- `NAN_BITS`, the pattern of the invalid-reading marker: a parameter, written by nothing (00_scope R4). -/
  nanBits : Req
  /-- The response to the last request that got one (30_encoding R55). -/
  response : Option Response
  bus : Bus
  script : List Event
  /-- The script's index: host state, of no width, advancing by one (10_state R18). -/
  index : Nat
  host : HostState
deriving DecidableEq, Repr

/-- Why the machine stops. No request stops it: errors are responses (60_exceptions R169). -/
inductive Fault where
  /-- Raised by `step` when the script has no event left: the run is over (00_scope R9). Safe: the model takes no step. -/
  | endOfRun
deriving DecidableEq, Repr

/-- Events the model gives no meaning. None of them is a request. -/
inductive Refusal where
  /-- Kept for an instruction without a meaning; no arm of `exec` answers it. Safe. -/
  | notModelled (mnemonic : String)
  /-- Raised by the setup event when setup has ended already: it runs once and no re-run is described (70_reset R186). Safe. -/
  | setupRerun
  /-- Raised by the setup and tick events inside a sequence of the single host task: no re-entry (44_host_sequences R146). Safe. -/
  | taskBusy
  /-- Raised by the tick event while a completion is pending: the open parameter `TICK_OVERLAP` (R146, U13). Safe. -/
  | tickOverlap
deriving DecidableEq, Repr

/-- The block right after reset (10_state R21). -/
def Block.afterReset : Block where
  w0 := none
  w1 := none
  nw := 0
  crcc := none
  crcr := none

/-- The machine right after reset: the block as R21 says, the host as R130 says, nothing asked and nothing answered yet. -/
def State.reset : State where
  block := Block.afterReset
  nanBits := 0x7FC00000
  response := none
  bus := { calls := [], writeAnswers := [], readAnswers := [], draws := 0 }
  script := []
  index := 0
  host :=
    { variant := none, identity := none, warn := false, failed := false, timer := none, phase := .idle,
      tempSink := some [], humSink := some [], log := [] }

end Sys2Proof.Machine
end

