-- ==== Sys2Proof/Machine/Operands.lean ====
section
/-! DEFINITION. The operand forms: the command selector into the constant table, the word count, and the register number
(30_encoding R52, R57; 10_state R12, R16). -/

namespace Sys2Proof.Machine

/-- `CMDROM`: Sleep, WakeUp, ReadID, SoftReset, PollHighPrecision (10_state R12). -/
def cmdRom : List Word := [0xB098, 0x3517, 0xEFC8, 0x805D, 0x7866]

/-- `cmd_code(s)`; not defined for a selector past the table (40_command_encoder R80, R83). -/
def cmdCode (s : BitVec 3) : Option Word := cmdRom[s.toNat]?

/-- The word counts `RDW` accepts: 1 to `MAXW` (42_frame_reader R106). -/
def countLegal (n : BitVec 3) : Bool := decide (1 ≤ n.toNat) && decide (n.toNat ≤ Config.maxW)

/-- The register numbers `GET` accepts: 0 to 4 (10_state R16). -/
def regLegal (r : BitVec 3) : Bool := decide (r.toNat ≤ 4)

/-- The content of register number `r`, zero-extended, or none where it holds no value (10_state R13, R16). -/
def regContent (r : BitVec 3) (b : Block) : Option Req :=
  match r.toNat with
  | 0 => b.w0.map (·.setWidth 32)
  | 1 => b.w1.map (·.setWidth 32)
  | 2 => some (b.nw.setWidth 32)
  | 3 => b.crcc.map (·.setWidth 32)
  | 4 => b.crcr.map (·.setWidth 32)
  | _ => none

end Sys2Proof.Machine
end

