-- ==== Sys2Proof/Machine/Ops.lean ====
section
/-! DEFINITION. The named operations every meaning is made of: answering a request, raising an error, the two transport calls,
the writes of the block's registers, and reset. There is no return operation beside raising an error (60_exceptions R170). -/

namespace Sys2Proof.Machine

/-- The 4-bit code of an error (60_exceptions R160). -/
def ErrCode.bits : ErrCode → BitVec 4
  | .none => 0
  | .illop => 1
  | .illarg => 2
  | .noword => 3
  | .busw => 4
  | .busr => 5
  | .crc => 6

/-- The packed 36-bit form `{err, data}` of a response (30_encoding R55). -/
def Response.packed (r : Response) : BitVec 36 := r.err.bits ++ r.data

/-- `respond(err, data)`: the operation ends and the host receives the pair (00_scope R7). -/
def respond (e : ErrCode) (d : Req) (s : State) : State := { s with response := some ⟨e, d⟩ }

/-- `raise E(info)`: the one way an error is taken. It responds and does nothing else: nothing is saved, no mode changes,
control goes nowhere (00_scope R7, 60_exceptions R169). -/
def raise (e : ErrCode) (info : Req) (s : State) : State := respond e info s

/-- The answer the transport gives to a write: the next one listed, or a free bit (20_memory R30, R45). -/
def writeAnswer (b : Bus) : Bool :=
  match b.writeAnswers with
  | a :: _ => a
  | [] => Config.busWriteOk b.draws

/-- The answer the transport gives to a read of `len` bytes: the next one listed, or free values; an OK answer holds exactly
`len` bytes (20_memory R31, R35, R45). -/
def readAnswer (len : Nat) (b : Bus) : BusReply :=
  match b.readAnswers with
  | .notOk :: _ => .notOk
  | .ok bytes :: _ => .ok (bytes.toList.take len)
  | [] =>
    if Config.busReadOk b.draws then .ok ((List.range len).map (Config.busReadByte b.draws))
    else .notOk

/-- The transport after a write call: the call is made, once, and its answer is used up (20_memory R30, R37). -/
def Bus.afterWrite (r p : Byte) (b : Bus) : Bus :=
  { b with calls := b.calls ++ [.write r p], writeAnswers := b.writeAnswers.tail, draws := b.draws + 1 }

/-- The transport after a read call (20_memory R31, R37). -/
def Bus.afterRead (len : Nat) (b : Bus) : Bus :=
  { b with calls := b.calls ++ [.read len], readAnswers := b.readAnswers.tail, draws := b.draws + 1 }

/-- `BusWrite(r, p)`: `ok` and the state after the one call (20_memory R30). -/
def busWrite (r p : Byte) (s : State) : Bool × State :=
  (writeAnswer s.bus, { s with bus := s.bus.afterWrite r p })

/-- `BusRead(len)`: the reply and the state after the one call (20_memory R31). -/
def busRead (len : Nat) (s : State) : BusReply × State :=
  (readAnswer len s.bus, { s with bus := s.bus.afterRead len })

/-- Both word registers hold no value and `NW` is 0 (42_frame_reader R104). -/
def Block.dropWords (b : Block) : Block := { b with w0 := none, w1 := none, nw := 0 }

/-- The word registers hold the words of a frame, those past its end hold no value, and `NW` is their number
(42_frame_reader R103). -/
def Block.loadWords (ws : List Word) (b : Block) : Block :=
  { b with w0 := ws[0]?, w1 := ws[1]?, nw := BitVec.ofNat 2 ws.length }

/-- `CRCC` and `CRCR` hold the computed and the received checksum of one group (10_state R15). -/
def Block.setCrc (computed received : Byte) (b : Block) : Block := { b with crcc := some computed, crcr := some received }

/-- A change of the block's registers alone. -/
def State.setBlock (f : Block → Block) (s : State) : State := { s with block := f s.block }

/-- Reset of the block by the environment: its registers take the values of R21; nothing is sent to the sensor, no response is
given, and what is not the block's stays (70_reset R185, R192). -/
def resetBlock (s : State) : State := { s with block := Block.afterReset }

end Sys2Proof.Machine
end

