-- ==== Sys2Proof/Machine/Command.lean ====
section
/-! DEFINITION. The command encoder: `CMD` (40_command_encoder). -/

namespace Sys2Proof.Machine

/-- `split(c)`: the register byte and the payload byte of a command code (40_command_encoder R81, 20_memory R34). -/
def split (c : Word) : Byte × Byte := (c.extractLsb' 8 8, c.extractLsb' 0 8)

/-- The end of `CMD` on the transport's answer (R82, R164). -/
def answerWrite (ok : Bool) (s : State) : State :=
  if ok then respond .none 0 s else raise .busw 0 s

/-- What `CMD` does to the state (40_command_encoder R82). -/
def runCmd (sel : BitVec 3) (s : State) : State :=
  match cmdCode sel with
  | none => raise .illarg 0 s
  | some c =>
    let (r, p) := split c
    let (ok, t) := busWrite r p s
    answerWrite ok t

/-- `CMD s`: one write of the selected command's two bytes (40_command_encoder R82). -/
def execCmd (sel : BitVec 3) (s : State) : Host.Outcome State Fault Refusal := .next (runCmd sel s)

end Sys2Proof.Machine
end

