-- ==== Sys2Proof/Machine/Flags.lean ====
section
/-! DEFINITION. Flags. The block has none: no operation sets a carry, zero, overflow or comparison flag (10_state R17). The two
one-bit outcomes it computes, `CHK`'s match bit (R95) and `IDD`'s capability bit (R117), are fields of a response and go
through the one function below. -/

namespace Sys2Proof.Machine

/-- A truth value as a one-bit field of a response: 1 when it holds, else 0 (30_encoding R55, R62). -/
def flagBit (b : Bool) : BitVec 1 := if b then 1#1 else 0#1

end Sys2Proof.Machine
end

