-- ==== Sys2Proof/Machine/Float.lean ====
section
/-! DEFINITION. The binary32 results: the pattern of an exactly held value (43_decoders R122), what a pattern denotes
(30_encoding R63), and the evaluation with rounding at each operation (43_decoders R120). -/

namespace Sys2Proof.Machine

/-- `f32(num / 2^k)`: the binary32 pattern of a value that binary32 holds exactly: sign, exponent `e + 127` for
`2^e <= |q| < 2^(e+1)`, and fraction `(|q| / 2^e - 1) * 2^23` (43_decoders R122). -/
def f32 (num : Int) (k : Nat) : Req :=
  if num = 0 then 0
  else
    let a := num.natAbs
    let top := a.log2
    (if num < 0 then 1#1 else 0#1) ++ BitVec.ofNat 8 (top + 127 - k) ++ BitVec.ofNat 23 (a * 2 ^ 23 / 2 ^ top - 2 ^ 23)

/-- `data[31]`, the sign (30_encoding R63). -/
def f32Sign (b : Req) : Bool := b.getLsbD 31

/-- `data[30:23]`, the biased exponent (30_encoding R63). -/
def f32Exp (b : Req) : BitVec 8 := b.extractLsb' 23 8

/-- `data[22:0]`, the fraction (30_encoding R63). -/
def f32Frac (b : Req) : BitVec 23 := b.extractLsb' 0 23

/-- The pattern is a NaN: exponent all ones and fraction not zero (30_encoding R63, 43_decoders R124). -/
def isNan (b : Req) : Bool := f32Exp b == 0xFF && f32Frac b != 0

/-- The pattern is positive zero or a normal number, so no NaN, infinity, negative zero or subnormal (43_decoders R125 (d)). -/
def isPlain (b : Req) : Bool := b == 0 || (f32Exp b != 0xFF && f32Exp b != 0)

/-- The value of a pattern that `isPlain` admits (30_encoding R63, bias 127). -/
def f32Value (b : Req) : ℚ :=
  if b = 0 then 0
  else
    (if f32Sign b then -1 else 1) * (1 + (f32Frac b).toNat / 2 ^ 23) * (2 : ℚ) ^ ((f32Exp b).toNat - 127 : Int)

/-- A number `num / 2^exp`, for the evaluation of R120. -/
structure Scaled where
  num : Int
  exp : Nat
deriving DecidableEq, Repr

/-- The quotient of `a` by `2^k` rounded to nearest, ties to even. -/
def divNearestEven (a k : Nat) : Nat :=
  let q := a / 2 ^ k
  let r := a % 2 ^ k
  if 2 ^ k < 2 * r ∨ (2 ^ k = 2 * r ∧ q % 2 = 1) then q + 1 else q

/-- Rounding to a 24-bit significand, to nearest, ties to even (43_decoders R120); the exponent is not bounded, since no value
here comes near its ends (R121). -/
def roundSig (x : Scaled) : Scaled :=
  let a := x.num.natAbs
  if a < 2 ^ 24 then x
  else
    let k := a.log2 - 23
    { x with num := x.num.sign * (divNearestEven a k * 2 ^ k : Nat) }

/-- Multiplication by a whole number, rounded (R120). -/
def fMul (c : Int) (x : Scaled) : Scaled := roundSig { x with num := c * x.num }

/-- Division by `65536.0`, rounded (R120). -/
def fDiv65536 (x : Scaled) : Scaled := roundSig { x with exp := x.exp + 16 }

/-- Subtraction of a whole number, rounded (R120). -/
def fSub (x : Scaled) (c : Int) : Scaled := roundSig { x with num := x.num - c * 2 ^ x.exp }

end Sys2Proof.Machine
end

