-- ==== Sys2Proof/Machine/Decoders.lean ====
section
/-! DEFINITION. The word decoders: `IDD`, `CVT` and `CVH` (43_decoders). -/

namespace Sys2Proof.Machine

/-- `decode_id(w)` (43_decoders R115). -/
def decodeId (w : Word) : Variant :=
  if w.extractLsb' 0 6 = 0x07#6 then
    if w.getLsbD 11 then .shtc3 else .shtc1
  else .unknown

/-- `has_sleep(v)`: every variant but SHTC1 (43_decoders R116). -/
def hasSleep : Variant → Bool
  | .shtc1 => false
  | .shtc3 => true
  | .unknown => true

/-- The variant's code in a response (30_encoding R62). -/
def variantCode : Variant → BitVec 2
  | .shtc1 => 0
  | .shtc3 => 1
  | .unknown => 2

/-- The `data` of `IDD`: capability bit and variant code (43_decoders R117). -/
def iddData (w : Word) : Req := 0#29 ++ flagBit (hasSleep (decodeId w)) ++ variantCode (decodeId w)

/-- The temperature of a word, as the numerator over `2^16` of its exact value (43_decoders R118). -/
def tempNum (w : Word) : Int := 175 * w.toNat - 2949120

/-- The relative humidity of a word, as the numerator over `2^16` of its exact value (43_decoders R119). -/
def humNum (w : Word) : Int := 100 * w.toNat

/-- The expression `175.0 * w / 65536.0 - 45.0` evaluated left to right with rounding (43_decoders R120). -/
def tempEval (w : Word) : Scaled := fSub (fDiv65536 (fMul 175 ⟨w.toNat, 0⟩)) 45

/-- The same with the division done first (43_decoders R121). -/
def tempEvalDivFirst (w : Word) : Scaled := fSub (fMul 175 (fDiv65536 ⟨w.toNat, 0⟩)) 45

/-- The expression `100.0 * w / 65536.0` evaluated left to right with rounding (43_decoders R120). -/
def humEval (w : Word) : Scaled := fDiv65536 (fMul 100 ⟨w.toNat, 0⟩)

/-- The same with the division done first (43_decoders R121). -/
def humEvalDivFirst (w : Word) : Scaled := fMul 100 (fDiv65536 ⟨w.toNat, 0⟩)

/-- The `data` of `CVT` (43_decoders R122). -/
def cvtData (w : Word) : Req := f32 (tempNum w) 16

/-- The `data` of `CVH` (43_decoders R123). -/
def cvhData (w : Word) : Req := f32 (humNum w) 16

/-- Decodes a word register: answers `f` of the word, or raises `E_NOWORD` with `marker` where it holds no value
(60_exceptions R163). -/
def decodeWith (reg : Option Word) (marker : Req) (f : Word → Req) (s : State) : State :=
  match reg with
  | some w => respond .none (f w) s
  | none => raise .noword marker s

/-- `IDD`: the variant of `W[0]` (43_decoders R117). -/
def execIdd (s : State) : Host.Outcome State Fault Refusal := .next (decodeWith s.block.w0 0 iddData s)

/-- `CVT`: the temperature of `W[0]` (43_decoders R122). -/
def execCvt (s : State) : Host.Outcome State Fault Refusal := .next (decodeWith s.block.w0 s.nanBits cvtData s)

/-- `CVH`: the relative humidity of `W[1]` (43_decoders R123). -/
def execCvh (s : State) : Host.Outcome State Fault Refusal := .next (decodeWith s.block.w1 s.nanBits cvhData s)

end Sys2Proof.Machine
end

