-- ==== Sys2Proof/Machine/Frame.lean ====
section
/-! DEFINITION. The frame reader `RDW` and the register read `GET` (42_frame_reader). -/

namespace Sys2Proof.Machine

/-- The groups of a frame, back to back: group `g` is bytes `3g`, `3g+1`, `3g+2` (30_encoding R60). -/
def groupsOf : List Byte → List Group
  | hi :: lo :: c :: rest => ⟨hi, lo, c⟩ :: groupsOf rest
  | _ => []

/-- The results of `read_words` (42_frame_reader R100). -/
inductive ReadResult where
  | busReadFailed
  /-- The index of the first bad group, its computed and its received checksum. -/
  | crcMismatch (g : Nat) (computed received : Byte)
  | words (ws : List Word)
deriving DecidableEq, Repr

/-- Checks groups in ascending order from index `g`; the first mismatch ends the read and no word is delivered
(42_frame_reader R100 to R102). -/
def checkGroups : Nat → List Group → ReadResult
  | _, [] => .words []
  | g, x :: xs =>
    let (m, computed, word) := checkGroup x
    if m then
      match checkGroups (g + 1) xs with
      | .words ws => .words (word :: ws)
      | r => r
    else .crcMismatch g computed x.crc

/-- `read_words` on the transport's reply to a read of the frame's bytes (42_frame_reader R100). -/
def readWords : BusReply → ReadResult
  | .notOk => .busReadFailed
  | .ok bytes => checkGroups 0 (groupsOf bytes)

/-- The registers after a frame whose every group matched: its words, and the checksums of its last group
(42_frame_reader R103). -/
def storeFrame (bytes : List Byte) (ws : List Word) (b : Block) : Block :=
  match (groupsOf bytes).getLast? with
  | some g => (b.loadWords ws).setCrc (crc8 g.hi g.lo) g.crc
  | none => b.loadWords ws

/-- The bytes a reply delivers; those of a failed read are used by no rule (20_memory R31). -/
def BusReply.frame : BusReply → List Byte
  | .notOk => []
  | .ok bytes => bytes

/-- The `data` of `E_CRC`: eight zeros, the group's index, the computed and the received checksum (30_encoding R55). -/
def crcErrorData (g : Nat) (computed received : Byte) : Req := 0#8 ++ BitVec.ofNat 8 g ++ computed ++ received

/-- The three arms of `RDW` after its transport call (42_frame_reader R103, R104). -/
def finishRead (reply : BusReply) (s : State) : State :=
  match readWords reply with
  | .busReadFailed => raise .busr 0 (s.setBlock Block.dropWords)
  | .crcMismatch g computed received =>
    raise .crc (crcErrorData g computed received) (s.setBlock fun b => b.dropWords.setCrc computed received)
  | .words ws => respond .none 0 (s.setBlock (storeFrame reply.frame ws))

/-- What `RDW` does to the state (42_frame_reader R103). -/
def runRdw (n : BitVec 3) (s : State) : State :=
  if countLegal n then
    let (reply, t) := busRead (3 * n.toNat) s
    finishRead reply t
  else raise .illarg 0 s

/-- `RDW n`: reads a frame of `n` words, all or nothing (42_frame_reader R103). -/
def execRdw (n : BitVec 3) (s : State) : Host.Outcome State Fault Refusal := .next (runRdw n s)

/-- What `GET` does to the state (42_frame_reader R105). -/
def runGet (r : BitVec 3) (s : State) : State :=
  if regLegal r then
    match regContent r s.block with
    | some d => respond .none d s
    | none => raise .noword 0 s
  else raise .illarg 0 s

/-- `GET r`: delivers the content of one register (42_frame_reader R105). -/
def execGet (r : BitVec 3) (s : State) : Host.Outcome State Fault Refusal := .next (runGet r s)

end Sys2Proof.Machine
end

