-- ==== Sys2Proof/Machine/Dispatch.lean ====
section
/-! DEFINITION. One arm per operation (30_encoding R51). -/

namespace Sys2Proof.Machine

/-- The effect of a decoded request (30_encoding R53, step 5, and the operand range tests of step 4). -/
def exec (i : Instr) (s : State) : Host.Outcome State Fault Refusal :=
  match i with
  | .cmd sel => Sys2Proof.Machine.execCmd sel s
  | .crc a b => Sys2Proof.Machine.execCrc a b s
  | .chk hi lo c => Sys2Proof.Machine.execChk hi lo c s
  | .rdw n => Sys2Proof.Machine.execRdw n s
  | .get r => Sys2Proof.Machine.execGet r s
  | .idd => Sys2Proof.Machine.execIdd s
  | .cvt => Sys2Proof.Machine.execCvt s
  | .cvh => Sys2Proof.Machine.execCvh s

end Sys2Proof.Machine
end

