-- ==== Sys2Proof/Machine/Serve.lean ====
section
/-! DEFINITION. Serving one request word: decode it and execute it, or raise the error the decoder names (30_encoding R53). -/

namespace Sys2Proof.Machine

/-- The error a request word that is no instruction raises (60_exceptions R161, R162). -/
def decodeErrCode : DecodeError → ErrCode
  | .illop => .illop
  | .illarg => .illarg

/-- One request, from the word to its response (00_scope R2, R8). -/
def serve (w : Req) (s : State) : Host.Outcome State Fault Refusal :=
  match decode w with
  | .ok i => exec i s
  | .error e => .next (raise (decodeErrCode e) 0 s)

/-- A request during which the block is reset: its transport call, if it was already made, stands; the registers are reset and
no response is given (70_reset R185, U9). -/
def abortRequest (w : Req) (called : Bool) (s : State) : Host.Outcome State Fault Refusal :=
  match serve w s with
  | .next t => .next (resetBlock { s with bus := if called then t.bus else s.bus })
  | .fault f => .fault f
  | .refused r => .refused r

end Sys2Proof.Machine
end

