-- ==== Sys2Proof/Machine/HostTask.lean ====
section
/-! DEFINITION. The host around the block: the Device Identity Resolver and the Measurement Cycle Controller, one request a
step (44_host_sequences). -/

namespace Sys2Proof.Machine

/-- `PENDING` (44_host_sequences R130). -/
def HostState.pending (h : HostState) : Bool := h.timer.isSome

/-- `has_sleep(VARIANT)`; false before the variant is known, when no sequence asks (R116, R186). -/
def HostState.sleeps (h : HostState) : Bool := (h.variant.map hasSleep).getD false

/-- The delay the Controller asks its timer for, in milliseconds (R139). -/
def completionDelay : Nat := 50

/-- The request of the host's current step (R132, R136 to R138, R140 to R142). -/
def hostRequest : Phase → Option Req
  | .idle => none
  | .setupWake => some (encode (.cmd 1))
  | .setupReset => some (encode (.cmd 3))
  | .setupReadId => some (encode (.cmd 2))
  | .setupRead => some (encode (.rdw 1))
  | .setupDecode => some (encode .idd)
  | .setupIdentity _ => some (encode (.get 0))
  | .tickReset => some (encode (.cmd 3))
  | .tickWake => some (encode (.cmd 1))
  | .tickPoll => some (encode (.cmd 4))
  | .readFrame => some (encode (.rdw 2))
  | .convertTemp => some (encode .cvt)
  | .convertHum _ => some (encode .cvh)
  | .sleep => some (encode (.cmd 0))

/-- Publishing to both sinks, temperature first; an absent sink is skipped (R144). -/
def HostState.publish (temp hum : Req) (h : HostState) : HostState :=
  { h with tempSink := h.tempSink.map (· ++ [temp]), humSink := h.humSink.map (· ++ [hum]) }

/-- One more log line (R145). -/
def HostState.note (l : LogLine) (h : HostState) : HostState := { h with log := h.log ++ [l] }

/-- The host's task goes on with step `p`. -/
def HostState.goTo (p : Phase) (h : HostState) : HostState := { h with phase := p }

/-- Setup has failed for good (R133). -/
def HostState.failSetup (h : HostState) : HostState := { h with failed := true, phase := .idle }

/-- A measurement has failed: the marker goes to both sinks and the warning is set (R138, R140). -/
def HostState.warnInvalid (nan : Req) (h : HostState) : HostState := { h.publish nan nan with warn := true }

/-- The log line of a failed read: which failure it was, with both checksums of a mismatch (R145, C5). -/
def readLog (r : Response) : LogLine :=
  match r.err with
  | .crc => .crcMismatch (r.data.extractLsb' 8 8) (r.data.extractLsb' 0 8)
  | _ => .readFailure

/-- The variant of the code in an `IDD` response; the code 3 is never produced (30_encoding R62, R132). -/
def variantOfCode (c : BitVec 2) : Variant :=
  match c.toNat with
  | 0 => .shtc1
  | 1 => .shtc3
  | _ => .unknown

/-- After the warm-up step: wake the sensor if it sleeps, else start the measurement (R137). -/
def afterWarmUp (h : HostState) : Phase := if h.sleeps then .tickWake else .tickPoll

/-- After the read step: put the sensor to sleep if it sleeps, else the completion ends (R142). -/
def afterRead (h : HostState) : Phase := if h.sleeps then .sleep else .idle

/-- A setup command whose failure is fatal or ignored as the open parameter says (R134). -/
def absorbSetupCommand (next : Phase) (r : Response) (h : HostState) : HostState :=
  if r.err ≠ .none ∧ Config.setupWakeResetFatal = true then (h.note .commandFailure).failSetup else h.goTo next

/-- What the host does with the response to the request of its current step (R131 to R143). DESIGN CHOICE: the completion
publishes the `data` of `CVT` and `CVH` and clears the warning without looking at their error codes, which are errors only if
something outside the sequence changed the words since the read (log entry 23); setup likewise (log entry 16). -/
def absorb (nan : Req) (r : Response) (h : HostState) : HostState :=
  match h.phase with
  | .idle => h
  | .setupWake => absorbSetupCommand .setupReset r h
  | .setupReset => absorbSetupCommand .setupReadId r h
  | .setupReadId => if r.err ≠ .none then (h.note .commandFailure).failSetup else h.goTo .setupRead
  | .setupRead => if r.err ≠ .none then (h.note (readLog r)).failSetup else h.goTo .setupDecode
  | .setupDecode => h.goTo (.setupIdentity (variantOfCode (r.data.extractLsb' 0 2)))
  | .setupIdentity v =>
    let id : Word := r.data.extractLsb' 0 16
    ({ h with variant := some v, identity := some id }.note (.identified v id)).goTo .idle
  | .tickReset => h.goTo (afterWarmUp h)
  | .tickWake => h.goTo .tickPoll
  | .tickPoll =>
    if r.err ≠ .none then ((h.note .commandFailure).warnInvalid nan).goTo .idle
    else { h with timer := some completionDelay }.goTo .idle
  | .readFrame =>
    if r.err ≠ .none then ((h.note (readLog r)).warnInvalid nan).goTo (afterRead h) else h.goTo .convertTemp
  | .convertTemp => h.goTo (.convertHum r.data)
  | .convertHum temp => { h.publish temp r.data with warn := false }.goTo (afterRead h)
  | .sleep => h.goTo .idle

/-- The host takes the response from the block. -/
def takeResponse (s : State) : State :=
  match s.response with
  | some r => { s with host := absorb s.nanBits r s.host }
  | none => s

/-- The host's task runs its current step: one request, and what it does with the response (R131, R149). An idle task does
nothing. -/
def hostProceed (s : State) : Host.Outcome State Fault Refusal :=
  match hostRequest s.host.phase with
  | none => .next s
  | some w =>
    match serve w s with
    | .next t => .next (takeResponse t)
    | .fault f => .fault f
    | .refused r => .refused r

/-- Initialization starts the Resolver, once (R132, R186). -/
def hostSetup (s : State) : Host.Outcome State Fault Refusal :=
  if s.host.phase ≠ .idle then .refused .taskBusy
  else if s.host.failed = true ∨ s.host.variant.isSome then .refused .setupRerun
  else .next { s with host := s.host.goTo .setupWake }

/-- A tick of the Controller: nothing after a failed setup (R148) or before a successful one (R186); else the warm-up check
(R136). -/
def hostTick (s : State) : Host.Outcome State Fault Refusal :=
  if s.host.failed = true ∨ s.host.variant = none then .next s
  else if s.host.phase ≠ .idle then .refused .taskBusy
  else if s.host.pending then .refused .tickOverlap
  else .next { s with host := s.host.goTo (if s.host.warn then .tickReset else afterWarmUp s.host) }

/-- Milliseconds pass: the pending completion's wait gets shorter; once it is over and the host's task is free the completion
starts, and is no longer pending (R139). -/
def hostElapse (ms : Nat) (s : State) : State :=
  match s.host.timer with
  | none => s
  | some left =>
    if left ≤ ms ∧ s.host.phase = .idle then { s with host := { s.host with timer := none, phase := .readFrame } }
    else { s with host := { s.host with timer := some (left - ms) } }

/-- The configuration dump: model and failure status (R145, R148). -/
def hostDump (s : State) : State :=
  { s with host := s.host.note (.configDump s.host.variant s.host.failed) }

/-- What one event of the script does. -/
def runEvent (e : Event) (s : State) : Host.Outcome State Fault Refusal :=
  match e with
  | .request w => serve w s
  | .reset => .next (resetBlock s)
  | .abort w called => abortRequest w called s
  | .setup => hostSetup s
  | .tick => hostTick s
  | .elapse ms => .next (hostElapse ms s)
  | .proceed => hostProceed s
  | .dump => .next (hostDump s)

/-- The next event of the script and the state with the index past it (10_state R18, 00_scope R9). -/
def nextEvent (s : State) : Option (Event × State) :=
  (s.script[s.index]?).map fun e => (e, { s with index := s.index + 1 })

/-- The script with one more event put where the index stands. -/
def putEvent (e : Event) (s : State) : State :=
  { s with script := s.script.take s.index ++ e :: s.script.drop s.index, index := (s.script.take s.index).length }

end Sys2Proof.Machine
end

