-- ==== Sys2Proof/Machine/Step.lean ====
section
/-! DEFINITION. One step of the machine: the next event of the script, or the end of the run (00_scope R9). -/

namespace Sys2Proof.Machine

/-- One step: the script's next event (10_state R18), or a stop when the run is over (00_scope R9). -/
def step (s : State) : Host.Outcome State Fault Refusal :=
  match nextEvent s with
  | some (e, t) => runEvent e t
  | none => .fault .endOfRun

/-- The state with the request whose low `nbits` bits are those of `w` as the next event. -/
def State.withFetchWord (s : State) (nbits w : Nat) : State :=
  putEvent (.request (BitVec.ofNat 32 (w % 2 ^ nbits))) s

end Sys2Proof.Machine
end

