-- ==== Sys2Proof/WellFormed.lean ====
section
/-! DEFINITION. The legal operand values of each operation (30_encoding R52, step 4 of R53). -/

namespace Sys2Proof

/-- The operand is in its legal range: `CMD` 0 to 4, `RDW` 1 to `MAXW`, `GET` 0 to 4; every byte operand is legal (R52). -/
def Instr.wf : Instr → Bool
  | .cmd s => decide (s.toNat ≤ 4)
  | .crc _ _ => true
  | .chk _ _ _ => true
  | .rdw n => decide (1 ≤ n.toNat) && decide (n.toNat ≤ Config.maxW)
  | .get r => decide (r.toNat ≤ 4)
  | .idd => true
  | .cvt => true
  | .cvh => true

end Sys2Proof
end

