-- ==== Sys2Proof/Machine/Assembler.lean ====
section
/-! DEFINITION. The assembler's line syntax and its five pseudo-instructions (30_encoding R66, R67). A line is a list of
characters; blanks separate the mnemonic from its operands and may stand before the mnemonic, around each operand and at the
end of the line (log entry 20). -/

namespace Sys2Proof.Machine

/-- The mnemonics of R66, in the order of their operation codes. -/
def asmMnemonics : List (List Char) :=
  [['C', 'M', 'D'], ['C', 'R', 'C'], ['C', 'H', 'K'], ['R', 'D', 'W'], ['G', 'E', 'T'], ['I', 'D', 'D'], ['C', 'V', 'T'],
    ['C', 'V', 'H']]

/-- The names of the five commands, by selector: operands of `CMD` (R66) and pseudo-instructions (R67). -/
def asmCommands : List (List Char) :=
  [['S', 'L', 'E', 'E', 'P'], ['W', 'A', 'K', 'E', 'U', 'P'], ['R', 'E', 'A', 'D', 'I', 'D'],
    ['S', 'O', 'F', 'T', 'R', 'E', 'S', 'E', 'T'], ['P', 'O', 'L', 'L', 'H', 'P']]

/-- The names of the five registers, by number: operands of `GET` (R66). -/
def asmRegisters : List (List Char) :=
  [['W', '0'], ['W', '1'], ['N', 'W'], ['C', 'R', 'C', 'C'], ['C', 'R', 'C', 'R']]

/-- A blank of a line. -/
def isBlankChar (c : Char) : Bool := c == ' ' || c == '\t'

/-- A piece of a line without the blanks around it. -/
def trimBlanks (l : List Char) : List Char :=
  ((l.dropWhile isBlankChar).reverse.dropWhile isBlankChar).reverse

/-- The pieces between commas. -/
def splitCommas : List Char → List (List Char)
  | [] => [[]]
  | c :: cs =>
    if c = ',' then [] :: splitCommas cs
    else
      match splitCommas cs with
      | [] => [[c]]
      | w :: ws => (c :: w) :: ws

/-- The value of a digit, decimal or hexadecimal. -/
def digitValue (c : Char) : Option Nat :=
  let n := c.toNat
  if 48 ≤ n ∧ n ≤ 57 then some (n - 48)
  else if 65 ≤ n ∧ n ≤ 70 then some (n - 55)
  else if 97 ≤ n ∧ n ≤ 102 then some (n - 87)
  else none

/-- The value of digits in a base, from the value of those before them. -/
def digitsValue (base : Nat) : List Char → Nat → Option Nat
  | [], v => some v
  | c :: cs, v =>
    match digitValue c with
    | some d => if d < base then digitsValue base cs (base * v + d) else none
    | none => none

/-- A number in decimal or `0x` hexadecimal (R66). -/
def asmNumber (l : List Char) : Option Nat :=
  match l with
  | [] => none
  | c :: cs =>
    if c = '0' ∧ cs.head? = some 'x' ∧ cs.tail ≠ [] then digitsValue 16 cs.tail 0
    else digitsValue 10 l 0

/-- An operand below `limit`: one of the names, by its place, or a number (R66). -/
def asmOperand (names : List (List Char)) (limit : Nat) (l : List Char) : Option Nat :=
  match names.findIdx? (· == l) with
  | some i => some i
  | none => (asmNumber l).filter (· < limit)

/-- An operation and its operands (R66). -/
def asmOperation (op : Nat) (args : List (List Char)) : Option Instr :=
  match op, args with
  | 0, [x] => (asmOperand asmCommands 8 x).map fun v => .cmd (BitVec.ofNat 3 v)
  | 1, [x, y] =>
    (asmOperand [] 256 x).bind fun a => (asmOperand [] 256 y).map fun b => .crc (BitVec.ofNat 8 a) (BitVec.ofNat 8 b)
  | 2, [x, y, z] =>
    (asmOperand [] 256 x).bind fun hi => (asmOperand [] 256 y).bind fun lo =>
      (asmOperand [] 256 z).map fun c => .chk (BitVec.ofNat 8 hi) (BitVec.ofNat 8 lo) (BitVec.ofNat 8 c)
  | 3, [x] => (asmOperand [] 8 x).map fun v => .rdw (BitVec.ofNat 3 v)
  | 4, [x] => (asmOperand asmRegisters 8 x).map fun v => .get (BitVec.ofNat 3 v)
  | 5, [] => some .idd
  | 6, [] => some .cvt
  | 7, [] => some .cvh
  | _, _ => none

/-- The operands after a mnemonic. -/
def asmArguments (l : List Char) : List (List Char) :=
  if trimBlanks l = [] then [] else (splitCommas l).map trimBlanks

/-- The instruction of one line, comment left out: an operation of R66 with legal operands, or a pseudo-instruction of R67.
DESIGN CHOICE: blanks before the mnemonic, and before a comment or the line's end, are dropped (log entry 20). -/
def assembleLine (line : List Char) : Option Instr :=
  let l := trimBlanks (line.takeWhile (· != ';'))
  let name := l.takeWhile (!isBlankChar ·)
  let args := asmArguments (l.dropWhile (!isBlankChar ·))
  match asmMnemonics.findIdx? (· == name) with
  | some op => (asmOperation op args).filter Instr.wf
  | none =>
    match asmCommands.findIdx? (· == name), args with
    | some s, [] => some (.cmd (BitVec.ofNat 3 s))
    | _, _ => none

/-- The request word of one line (R66). -/
def assemble (line : List Char) : Option Req := (assembleLine line).map encode

end Sys2Proof.Machine
end

