-- ==== Sys2Proof/Safety.lean ====
section
/-! DEFINITION. The invariants that claims take as premises: of the block (10_state R14, R23) and of the host
(44_host_sequences R130 to R148). -/

namespace Sys2Proof.Machine

/-- R23 with R14: `NW` is at most 2; `W[i]` holds a value exactly when `i < NW`; `CRCC` and `CRCR` hold values together; and
after a successful read they are equal. -/
abbrev Block.Ok (b : Block) : Prop :=
  b.nw.toNat ≤ 2 ∧ (b.w0.isSome = true ↔ 0 < b.nw.toNat) ∧ (b.w1.isSome = true ↔ 1 < b.nw.toNat) ∧
    b.crcc.isSome = b.crcr.isSome ∧ (0 < b.nw.toNat → b.crcc.isSome = true ∧ b.crcc = b.crcr)

/-- The step belongs to the setup sequence (R132). -/
def Phase.inSetup : Phase → Bool
  | .setupWake => true
  | .setupReset => true
  | .setupReadId => true
  | .setupRead => true
  | .setupDecode => true
  | .setupIdentity _ => true
  | _ => false

/-- The host's state is one its sequences can reach: identity is stored with the variant (R135); a failed setup leaves both
unset and the task idle for good (R133, R148); setup runs before the variant is known and everything else after (R186); a
completion is pending only while the task is idle, with at most 50 ms to wait (R139); a warning comes from a tick (R143). -/
abbrev HostState.Ok (h : HostState) : Prop :=
  h.identity.isSome = h.variant.isSome ∧
  (h.failed = true → h.variant = none ∧ h.phase = .idle) ∧
  (h.phase.inSetup = true → h.variant = none) ∧
  (h.phase ≠ .idle → h.phase.inSetup = false → h.variant.isSome = true) ∧
  (h.timer.isSome = true → h.phase = .idle ∧ h.variant.isSome = true ∧ h.timer.getD 0 ≤ 50) ∧
  (h.warn = true → h.variant.isSome = true)

/-- The whole machine: the block, the marker (43_decoders R124) and the host. -/
abbrev State.Ok (s : State) : Prop := s.block.Ok ∧ isNan s.nanBits = true ∧ s.host.Ok

end Sys2Proof.Machine
end

