-- ==== Sys2Proof/Certificates/Slice0/Obligations.lean ====
section
/-! DEFINITION. The statements for the provers. A statement that rests on a choice of the model says so and names the log
entry. `{ s with … }` says the frame as well: whatever is not listed is as before. -/

open Sys2Proof Sys2Proof.Machine

/-! ### Encodings -/

/-- Decoding the request word of any instruction gives it back, every operand at every value its field holds (R50 to R52,
R66). -/
def Obligations.DecodeOfEncode : Prop := ∀ i : Instr, decode (encode i) = .ok i

/-- Each request word has one meaning: the instruction it decodes to encodes to it, so no bit of it is ignored (R53, R54). -/
def Obligations.EncodeOfDecode : Prop := ∀ (w : Req) (i : Instr), decode w = .ok i → encode i = w

/-- A few request words of the spec, written out (R51, R66). -/
def Obligations.SpecWordsDecode : Prop :=
  decode 0x10000004 = .ok (.cmd 4) ∧ decode 0x2000BEEF = .ok (.crc 0xBE 0xEF) ∧
  decode 0x30BEEF92 = .ok (.chk 0xBE 0xEF 0x92) ∧ decode 0x40000002 = .ok (.rdw 2) ∧
  decode 0x50000003 = .ok (.get 3) ∧ decode 0x60000000 = .ok .idd ∧ decode 0x70000000 = .ok .cvt ∧
  decode 0x80000000 = .ok .cvh ∧ decode 0x0F000000 = .error .illop ∧ decode 0x11000004 = .error .illarg ∧
  decode 0x60000001 = .error .illarg

/-- R54: the number of legal request words; every other word is answered with one of the two decode errors, with no state
written and no transport call; the all-zero and the all-ones word are illegal operations. -/
def Obligations.LegalWordCount : Prop :=
  Nat.card { w : Req // ∃ i, decode w = .ok i ∧ i.wf = true } = 16842767 ∧
  (∀ (w : Req) (s : State), (∃ i, decode w = .ok i ∧ i.wf = true) ∨
    serve w s = .next { s with response := some ⟨.illop, 0⟩ } ∨
    serve w s = .next { s with response := some ⟨.illarg, 0⟩ }) ∧
  (∀ s : State, serve 0x00000000 s = .next { s with response := some ⟨.illop, 0⟩ } ∧
    serve 0xFFFFFFFF s = .next { s with response := some ⟨.illop, 0⟩ })

/-- R161: `op` 0 and 9 to 15, whatever the other bits: response `(1, 0)` and nothing else. -/
def Obligations.IllegalOperation : Prop :=
  ErrCode.illop.bits = 1 ∧
  ∀ (w : Req) (s : State), (w.extractLsb' 28 4 = 0 ∨ 9 ≤ (w.extractLsb' 28 4).toNat) →
    serve w s = .next { s with response := some ⟨.illop, 0⟩ }

/-- R162: with a legal `op`, `rsv` not zero, a reserved bit set, or an operand out of range: response `(2, 0)` and nothing
else; `CHK` can raise it only through `rsv`. -/
def Obligations.IllegalOperand : Prop :=
  ErrCode.illarg.bits = 2 ∧
  (∀ (w : Req) (s : State),
    let op := (w.extractLsb' 28 4).toNat
    let sel := (w.extractLsb' 0 3).toNat
    1 ≤ op ∧ op ≤ 8 →
    (w.extractLsb' 24 4 ≠ 0 ∨
      ((op = 1 ∨ op = 4 ∨ op = 5) ∧ w.extractLsb' 3 21 ≠ 0) ∨
      (op = 2 ∧ w.extractLsb' 16 8 ≠ 0) ∨
      (6 ≤ op ∧ w.extractLsb' 0 24 ≠ 0) ∨
      (op = 1 ∧ 5 ≤ sel) ∨ (op = 4 ∧ (sel = 0 ∨ 3 ≤ sel)) ∨ (op = 5 ∧ 5 ≤ sel)) →
    serve w s = .next { s with response := some ⟨.illarg, 0⟩ }) ∧
  (∀ (w : Req) (s : State), w.extractLsb' 28 4 = 3 → w.extractLsb' 24 4 = 0 →
    ∃ d, serve w s = .next { s with response := some ⟨.none, d⟩ })

/-- Every line the assembler accepts gives a legal request, which decodes to the line's instruction; lines of each operation
with the request words of R66, and the five pseudo-instructions with those of R67. -/
def Obligations.AssembledRequestsAreLegal : Prop :=
  (∀ (line : List Char) (w : Req), assemble line = some w →
    ∃ i, decode w = .ok i ∧ i.wf = true ∧ assembleLine line = some i) ∧
  assemble "CMD SOFTRESET".toList = some 0x10000003 ∧ assemble "CMD 4".toList = some 0x10000004 ∧
  assemble "CRC 0xBE, 239 ; a comment".toList = some 0x2000BEEF ∧
  assemble "CHK 0xBE, 0xEF, 0x92".toList = some 0x30BEEF92 ∧ assemble "RDW 2".toList = some 0x40000002 ∧
  assemble "GET CRCC".toList = some 0x50000003 ∧ assemble "GET 0".toList = some 0x50000000 ∧
  assemble "IDD".toList = some 0x60000000 ∧ assemble "CVT".toList = some 0x70000000 ∧
  assemble "CVH".toList = some 0x80000000 ∧
  assemble "CMD 5".toList = none ∧ assemble "RDW 3".toList = none ∧ assemble "GET 5".toList = none ∧
  assemble "CRC 256, 0".toList = none ∧
  assemble "SLEEP".toList = some 0x10000000 ∧ assemble "WAKEUP".toList = some 0x10000001 ∧
  assemble "READID".toList = some 0x10000002 ∧ assemble "SOFTRESET".toList = some 0x10000003 ∧
  assemble "POLLHP".toList = some 0x10000004

/-! ### The machine's step -/

/-- The step whose event is a request word that decodes to an instruction is that instruction at the state with the index past
the event, and a word that does not decode is answered with its error (R18, R53). -/
def Obligations.StepRunsDecoded : Prop :=
  (∀ (s : State) (w : Req) (i : Instr), s.script[s.index]? = some (.request w) → decode w = .ok i →
    step s = exec i { s with index := s.index + 1 }) ∧
  (∀ (s : State) (w : Req) (e : DecodeError), s.script[s.index]? = some (.request w) → decode w = .error e →
    step s = .next { s with index := s.index + 1, response := some ⟨if e = .illop then .illop else .illarg, 0⟩ })

/-- The step in which the host's task proceeds is the instruction of its current request at the state with the index past the
event, and then what the host does with the response (R131). -/
def Obligations.HostStepRunsDecoded : Prop :=
  ∀ (s t : State) (w : Req) (i : Instr), s.script[s.index]? = some .proceed → hostRequest s.host.phase = some w →
    decode w = .ok i → exec i { s with index := s.index + 1 } = .next t → step s = .next (takeResponse t)

/-- The run is over when no event is left (R9); that this is a stop of the model is its choice (log entry 1). -/
def Obligations.RunEndsWithScript : Prop :=
  ∀ s : State, s.script[s.index]? = none → step s = .fault .endOfRun

/-- The seven error codes; every request word in every state gets a response, with one of them, and serving it touches neither
the host nor the script nor the marker (R8, R160). -/
def Obligations.EveryRequestAnswered : Prop :=
  (ErrCode.none.bits = 0 ∧ ErrCode.illop.bits = 1 ∧ ErrCode.illarg.bits = 2 ∧ ErrCode.noword.bits = 3 ∧
    ErrCode.busw.bits = 4 ∧ ErrCode.busr.bits = 5 ∧ ErrCode.crc.bits = 6) ∧
  ∀ (w : Req) (s : State), ∃ t r, serve w s = .next t ∧ t.response = some r ∧ r.err.bits.toNat ≤ 6 ∧
    t.host = s.host ∧ t.script = s.script ∧ t.index = s.index ∧ t.nanBits = s.nanBits

/-- The access matrix of R22: only `RDW` writes registers; only `CMD` and `RDW` call the transport, exactly once with a legal
operand and not at all otherwise, `CMD` to write the two bytes of its code and `RDW` to read; nothing outside the block is
written but the response (R22, R37). That a call uses up a listed answer is the model's choice (log entry 2). -/
def Obligations.AccessMatrix : Prop :=
  ∀ (i : Instr) (s t : State), exec i s = .next t →
    (t.host = s.host ∧ t.script = s.script ∧ t.index = s.index ∧ t.nanBits = s.nanBits) ∧
    ((∀ n, i ≠ .rdw n) → t.block = s.block) ∧
    ((∀ n, i ≠ .rdw n) → (∀ c, i ≠ .cmd c) → t.bus = s.bus) ∧
    (∀ c, i = .cmd c → (cmdCode c = none ∧ t.bus = s.bus) ∨
      ∃ k, cmdCode c = some k ∧ t.bus = s.bus.afterWrite (split k).1 (split k).2) ∧
    (∀ n, i = .rdw n → t.bus = if n = 1 ∨ n = 2 then s.bus.afterRead (3 * n.toNat) else s.bus)

/-- The operations that make no transport call are idempotent: the same request again gives the same response and leaves the
state as it is (R37). -/
def Obligations.RepeatedRequestAgrees : Prop :=
  ∀ (i : Instr) (s t u : State), (∀ c, i ≠ .cmd c) → (∀ n, i ≠ .rdw n) → exec i s = .next t → exec i t = .next u → u = t

/-! ### The command encoder -/

/-- R80: the five command codes, and none for any other selector. -/
def Obligations.CommandTable : Prop :=
  cmdCode 0 = some 0xB098 ∧ cmdCode 1 = some 0x3517 ∧ cmdCode 2 = some 0xEFC8 ∧ cmdCode 3 = some 0x805D ∧
  cmdCode 4 = some 0x7866 ∧ ∀ s : BitVec 3, 5 ≤ s.toNat → cmdCode s = none

/-- R81: the split of a code loses nothing, and the five pairs. -/
def Obligations.SplitLosesNothing : Prop :=
  (∀ c : Word, (split c).1 ++ (split c).2 = c ∧ split c = (c.extractLsb' 8 8, c.extractLsb' 0 8)) ∧
  split 0xB098 = (0xB0, 0x98) ∧ split 0x3517 = (0x35, 0x17) ∧ split 0xEFC8 = (0xEF, 0xC8) ∧
  split 0x805D = (0x80, 0x5D) ∧ split 0x7866 = (0x78, 0x66)

/-- `CMD` completes for each of the five selectors: exactly one write of the command's two bytes, then `(0, 0)` or, when the
transport says not OK, `(4, 0)`; no register is written, so the sensor's soft reset leaves the block alone (R82, R164, R192).
That answers stand in the state is the model's choice (log entry 2). -/
def Obligations.CommandSendsOneWrite : Prop :=
  ErrCode.none.bits = 0 ∧ ErrCode.busw.bits = 4 ∧
  ∀ (s : State) (sel : BitVec 3) (r p : Byte),
    (sel, r, p) ∈ [((0 : BitVec 3), (0xB0 : Byte), (0x98 : Byte)), (1, 0x35, 0x17), (2, 0xEF, 0xC8), (3, 0x80, 0x5D),
      (4, 0x78, 0x66)] →
    exec (.cmd sel) s = .next { s with
      bus := { calls := s.bus.calls ++ [.write r p], writeAnswers := s.bus.writeAnswers.tail,
               readAnswers := s.bus.readAnswers, draws := s.bus.draws + 1 },
      response := some (if writeAnswer s.bus then ⟨.none, 0⟩ else ⟨.busw, 0⟩) }

/-! ### The CRC-8 validator -/

/-- R92: one step bit by bit; a step and eight steps are linear and invertible; the checksum by them. -/
def Obligations.CrcBitForm : Prop :=
  (∀ c : Byte,
    (crcStep c).getLsbD 0 = c.getLsbD 7 ∧ (crcStep c).getLsbD 1 = c.getLsbD 0 ∧
    (crcStep c).getLsbD 2 = c.getLsbD 1 ∧ (crcStep c).getLsbD 3 = c.getLsbD 2 ∧
    (crcStep c).getLsbD 4 = (c.getLsbD 3 ^^ c.getLsbD 7) ∧ (crcStep c).getLsbD 5 = (c.getLsbD 4 ^^ c.getLsbD 7) ∧
    (crcStep c).getLsbD 6 = c.getLsbD 5 ∧ (crcStep c).getLsbD 7 = c.getLsbD 6) ∧
  (∀ x y : Byte, crcStep (x ^^^ y) = crcStep x ^^^ crcStep y) ∧ Function.Bijective crcStep ∧
  (∀ x y : Byte, crcT (x ^^^ y) = crcT x ^^^ crcT y) ∧ crcT 0 = 0 ∧ Function.Bijective crcT ∧
  (∀ a b : Byte, crc8 a b = crcT (crcT a) ^^^ crcT b ^^^ 0x81) ∧ crcT (crcT 0xFF) = 0x81 ∧ crc8 0 0 = 0x81

/-- R91: the printed table is `T`, and the checksum by it. -/
def Obligations.CrcTableForm : Prop :=
  crcTable.length = 256 ∧ (∀ x : Byte, crcTable[x.toNat]? = some (crcT x)) ∧
  ∀ a b : Byte, crc8 a b = crcT (crcT (0xFF ^^^ a) ^^^ b)

/-- R96: in either byte alone the checksum is a bijection; each checksum has 256 pairs; a group changed in exactly one byte no
longer matches; changing two or three bytes can give another matching group. -/
def Obligations.CrcDetectsOneByte : Prop :=
  (∀ a : Byte, Function.Bijective (crc8 a)) ∧ (∀ b : Byte, Function.Bijective fun a => crc8 a b) ∧
  (∀ c : Byte, Nat.card { p : Byte × Byte // crc8 p.1 p.2 = c } = 256) ∧
  (∀ hi lo x : Byte, (x ≠ crc8 hi lo → crc8 hi lo ≠ x) ∧ (x ≠ hi → crc8 x lo ≠ crc8 hi lo) ∧
    (x ≠ lo → crc8 hi x ≠ crc8 hi lo)) ∧
  (∃ hi lo lo' : Byte, lo ≠ lo' ∧ (checkGroup ⟨hi, lo, crc8 hi lo⟩).1 = true ∧
    (checkGroup ⟨hi, lo', crc8 hi lo'⟩).1 = true ∧ crc8 hi lo ≠ crc8 hi lo') ∧
  (∃ hi hi' lo lo' : Byte, hi ≠ hi' ∧ lo ≠ lo' ∧ crc8 hi lo ≠ crc8 hi' lo' ∧
    (checkGroup ⟨hi, lo, crc8 hi lo⟩).1 = true ∧ (checkGroup ⟨hi', lo', crc8 hi' lo'⟩).1 = true)

/-- R94: the three parts of a group's check. -/
def Obligations.GroupCheck : Prop :=
  ∀ hi lo c : Byte, checkGroup ⟨hi, lo, c⟩ =
    (decide (crc8 hi lo = c), crc8 hi lo, (hi.setWidth 16 <<< 8) ||| lo.setWidth 16)

/-- `CRC` and `CHK` complete for all operands, with the response's fields as R93 and R95 lay them out and nothing else
changed; a mismatch is no error. -/
def Obligations.ValidatorAnswers : Prop :=
  (∀ (a b : Byte) (s : State), exec (.crc a b) s = .next { s with response := some ⟨.none, 0#24 ++ crc8 a b⟩ }) ∧
  (∀ (hi lo c : Byte) (s : State), ∃ d : Req,
    exec (.chk hi lo c) s = .next { s with response := some ⟨.none, d⟩ } ∧
    d.extractLsb' 16 16 = hi ++ lo ∧ d.extractLsb' 9 7 = 0 ∧
    d.getLsbD 8 = decide (crc8 hi lo = c) ∧ d.extractLsb' 0 8 = crc8 hi lo)

/-! ### The frame reader and the register read -/

/-- What a read delivers: not OK, or exactly as many bytes as were asked for, 3 or 6 (R31, R35; log entries 2 and 4). -/
def Obligations.ReadDeliversAskedLength : Prop :=
  ∀ (b : Bus) (len : Nat), len ≤ 6 → readAnswer len b = .notOk ∨ ∃ bytes, readAnswer len b = .ok bytes ∧ bytes.length = len

/-- R100 for frames of any number of groups: nothing when the read failed; the words when every group matches; the first
mismatching group, by index and with both checksums, otherwise. -/
def Obligations.ReadWordsFunction : Prop :=
  let bytesOf := fun gs : List Group => gs.flatMap fun g => [g.hi, g.lo, g.crc]
  readWords .notOk = .busReadFailed ∧
  (∀ gs : List Group, (∀ g ∈ gs, crc8 g.hi g.lo = g.crc) →
    readWords (.ok (bytesOf gs)) = .words (gs.map fun g => g.hi ++ g.lo)) ∧
  (∀ (before : List Group) (g : Group) (after : List Group), (∀ x ∈ before, crc8 x.hi x.lo = x.crc) →
    crc8 g.hi g.lo ≠ g.crc →
    readWords (.ok (bytesOf (before ++ g :: after))) = .crcMismatch before.length (crc8 g.hi g.lo) g.crc)

/-- A frame whose groups all match, with one byte of it changed, delivers no word (R96 (c), R101, E10). -/
def Obligations.CorruptedByteRejectsFrame : Prop :=
  ∀ (gs : List Group) (k : Nat) (x : Byte),
    let bytes := gs.flatMap fun g => [g.hi, g.lo, g.crc]
    (∀ g ∈ gs, crc8 g.hi g.lo = g.crc) → (h : k < bytes.length) → x ≠ bytes[k] →
    ∀ ws, readWords (.ok (bytes.set k x)) ≠ .words ws

/-- `RDW` completes on a frame whose groups match: the words, their number and the last group's checksums are written, together,
and `RDW 1` leaves `W[1]` without a value (R103). -/
def Obligations.ReadStoresFrame : Prop :=
  (∀ (s : State) (hi lo c : Byte), readAnswer 3 s.bus = .ok [hi, lo, c] → crc8 hi lo = c →
    exec (.rdw 1) s = .next { s with
      bus := { calls := s.bus.calls ++ [.read 3], writeAnswers := s.bus.writeAnswers,
               readAnswers := s.bus.readAnswers.tail, draws := s.bus.draws + 1 },
      block := { w0 := some (hi ++ lo), w1 := none, nw := 1, crcc := some c, crcr := some c },
      response := some ⟨.none, 0⟩ }) ∧
  (∀ (s : State) (hi lo c hi' lo' c' : Byte), readAnswer 6 s.bus = .ok [hi, lo, c, hi', lo', c'] →
    crc8 hi lo = c → crc8 hi' lo' = c' →
    exec (.rdw 2) s = .next { s with
      bus := { calls := s.bus.calls ++ [.read 6], writeAnswers := s.bus.writeAnswers,
               readAnswers := s.bus.readAnswers.tail, draws := s.bus.draws + 1 },
      block := { w0 := some (hi ++ lo), w1 := some (hi' ++ lo'), nw := 2, crcc := some c', crcr := some c' },
      response := some ⟨.none, 0⟩ })

/-- `RDW` on a failed transport read: no word, `NW` 0, the checksums as they were, response `(5, 0)` (R104, R165). -/
def Obligations.ReadBusFailure : Prop :=
  ErrCode.busr.bits = 5 ∧
  ∀ (s : State) (n : BitVec 3), n = 1 ∨ n = 2 → readAnswer (3 * n.toNat) s.bus = .notOk →
    exec (.rdw n) s = .next { s with
      bus := { calls := s.bus.calls ++ [.read (3 * n.toNat)], writeAnswers := s.bus.writeAnswers,
               readAnswers := s.bus.readAnswers.tail, draws := s.bus.draws + 1 },
      block := { w0 := none, w1 := none, nw := 0, crcc := s.block.crcc, crcr := s.block.crcr },
      response := some ⟨.busr, 0⟩ }

/-- `RDW` on a frame with a mismatching group: no word, not even that of a good group before it; the first bad group's two
checksums in `CRCC` and `CRCR`, and with its index in the response `(6, …)` (R104, R166). -/
def Obligations.ReadCrcMismatch : Prop :=
  ErrCode.crc.bits = 6 ∧
  ∀ (s : State) (n : BitVec 3) (before : List Group) (g : Group) (after : List Group),
    n = 1 ∨ n = 2 → before.length + 1 + after.length = n.toNat →
    readAnswer (3 * n.toNat) s.bus = .ok ((before ++ g :: after).flatMap fun x => [x.hi, x.lo, x.crc]) →
    (∀ x ∈ before, crc8 x.hi x.lo = x.crc) → crc8 g.hi g.lo ≠ g.crc →
    exec (.rdw n) s = .next { s with
      bus := { calls := s.bus.calls ++ [.read (3 * n.toNat)], writeAnswers := s.bus.writeAnswers,
               readAnswers := s.bus.readAnswers.tail, draws := s.bus.draws + 1 },
      block := { w0 := none, w1 := none, nw := 0, crcc := some (crc8 g.hi g.lo), crcr := some g.crc },
      response := some ⟨.crc, 0#8 ++ BitVec.ofNat 8 before.length ++ crc8 g.hi g.lo ++ g.crc⟩ }

/-- `GET` completes for each register that holds a value, zero-extended, and `NW` always does; nothing else changes (R16,
R105). -/
def Obligations.RegisterReadAnswers : Prop :=
  (∀ (s : State) (w : Word), s.block.w0 = some w →
    exec (.get 0) s = .next { s with response := some ⟨.none, 0#16 ++ w⟩ }) ∧
  (∀ (s : State) (w : Word), s.block.w1 = some w →
    exec (.get 1) s = .next { s with response := some ⟨.none, 0#16 ++ w⟩ }) ∧
  (∀ s : State, exec (.get 2) s = .next { s with response := some ⟨.none, 0#30 ++ s.block.nw⟩ }) ∧
  (∀ (s : State) (c : Byte), s.block.crcc = some c →
    exec (.get 3) s = .next { s with response := some ⟨.none, 0#24 ++ c⟩ }) ∧
  (∀ (s : State) (c : Byte), s.block.crcr = some c →
    exec (.get 4) s = .next { s with response := some ⟨.none, 0#24 ++ c⟩ })

/-- The operations that read a register holding no value answer `(3, NAN_BITS)` or `(3, 0)` and write nothing (R13, R163). -/
def Obligations.NoValueAnswers : Prop :=
  ErrCode.noword.bits = 3 ∧
  (∀ (s : State) (r : BitVec 3),
    (r = 0 ∧ s.block.w0 = none) ∨ (r = 1 ∧ s.block.w1 = none) ∨ (r = 3 ∧ s.block.crcc = none) ∨
      (r = 4 ∧ s.block.crcr = none) →
    exec (.get r) s = .next { s with response := some ⟨.noword, 0⟩ }) ∧
  (∀ s : State, s.block.w0 = none →
    exec .idd s = .next { s with response := some ⟨.noword, 0⟩ } ∧
    exec .cvt s = .next { s with response := some ⟨.noword, s.nanBits⟩ }) ∧
  (∀ s : State, s.block.w1 = none → exec .cvh s = .next { s with response := some ⟨.noword, s.nanBits⟩ })

/-! ### The word decoders -/

/-- R115: the identity decode, and how many words decode to each variant. -/
def Obligations.IdentityDecode : Prop :=
  (∀ w : Word,
    (w &&& 0x003F = 0x0007 → w &&& 0x0800 ≠ 0 → decodeId w = .shtc3) ∧
    (w &&& 0x003F = 0x0007 → w &&& 0x0800 = 0 → decodeId w = .shtc1) ∧
    (w &&& 0x003F ≠ 0x0007 → decodeId w = .unknown)) ∧
  Nat.card { w : Word // decodeId w = .shtc3 } = 512 ∧ Nat.card { w : Word // decodeId w = .shtc1 } = 512 ∧
  Nat.card { w : Word // decodeId w = .unknown } = 64512

/-- `IDD` completes when `W[0]` holds a value: one of three answers, by the word's low six bits and bit 11 (R62, R117). -/
def Obligations.IdentityAnswers : Prop :=
  ∀ (s : State) (w : Word), s.block.w0 = some w →
    exec .idd s = .next { s with response := some ⟨.none,
      if w.extractLsb' 0 6 = 0x07 then (if w.getLsbD 11 then 0x00000005 else 0x00000000) else 0x00000006⟩ }

/-- `CVT` and `CVH` complete when their register holds a value, with the pattern of a plain binary32 number whose value is
exactly the formula's (R118, R119, R121 to R123). -/
def Obligations.ConversionsAreExact : Prop :=
  (∀ (s : State) (w : Word), s.block.w0 = some w → ∃ d : Req,
    exec .cvt s = .next { s with response := some ⟨.none, d⟩ } ∧ isPlain d = true ∧
    f32Value d = 175 * (w.toNat : ℚ) / 65536 - 45) ∧
  (∀ (s : State) (w : Word), s.block.w1 = some w → ∃ d : Req,
    exec .cvh s = .next { s with response := some ⟨.none, d⟩ } ∧ isPlain d = true ∧
    f32Value d = 100 * (w.toNat : ℚ) / 65536)

/-- The spec's binary32 evaluation, rounding at each operation, gives the exact value, and so does the one that divides first
(R120, R121). -/
def Obligations.EvaluationIsExact : Prop :=
  ∀ w : Word,
    (tempEval w).num * 2 ^ 16 = tempNum w * 2 ^ (tempEval w).exp ∧
    (tempEvalDivFirst w).num * 2 ^ 16 = tempNum w * 2 ^ (tempEvalDivFirst w).exp ∧
    (humEval w).num * 2 ^ 16 = humNum w * 2 ^ (humEval w).exp ∧
    (humEvalDivFirst w).num * 2 ^ 16 = humNum w * 2 ^ (humEvalDivFirst w).exp

/-- R125 (a) to (e) on the delivered patterns: both conversions strictly increasing by a fixed step between their stated ends,
the temperature never zero and of the stated sign, never a NaN, infinity, negative zero or subnormal, and injective. -/
def Obligations.ConversionProperties : Prop :=
  (∀ w v : Word, w.toNat + 1 = v.toNat →
    f32Value (cvtData v) - f32Value (cvtData w) = 175 / 65536 ∧
    f32Value (cvhData v) - f32Value (cvhData w) = 100 / 65536) ∧
  f32Value (cvtData 0) = -45 ∧ f32Value (cvtData 0xFFFF) = 8519505 / 65536 ∧
  cvhData 0 = 0 ∧ f32Value (cvhData 0xFFFF) = 6553500 / 65536 ∧
  (∀ w : Word, f32Value (cvtData w) ≠ 0 ∧ (f32Value (cvtData w) < 0 ↔ w.toNat ≤ 16852) ∧
    f32Value (cvhData w) < 100 ∧ isPlain (cvtData w) = true ∧ isPlain (cvhData w) = true ∧
    isNan (cvtData w) = false ∧ isNan (cvhData w) = false) ∧
  Function.Injective cvtData ∧ Function.Injective cvhData

/-! ### Invariants and reset -/

/-- R23: the block's invariant holds after reset and after every operation. -/
def Obligations.BlockInvariant : Prop :=
  State.reset.block.Ok ∧ ∀ (w : Req) (s t : State), s.block.Ok → serve w s = .next t → t.block.Ok

/-- The machine's invariant holds at reset (R21, R23, R130). -/
def Obligations.ResetMeetsInvariant : Prop := State.reset.Ok

/-- Every step keeps the machine's invariant: of the block (R14, R23), of the marker (R124) and of the host's sequences
(R130 to R148; that setup does not run again is log entry 12, that time passes only in its own event is log entry 11). -/
def Obligations.StepKeepsInvariant : Prop := ∀ s t : State, s.Ok → step s = .next t → t.Ok

/-- Reset of the block between requests: its registers at the values of R21, nothing sent to the sensor, no response, the host
untouched (R21, R185, R192). -/
def Obligations.ResetEvent : Prop :=
  ∀ s : State, s.script[s.index]? = some .reset →
    step s = .next { s with
      index := s.index + 1,
      block := { w0 := none, w1 := none, nw := 0, crcc := none, crcr := none } }

/-- Reset of the block during a request: the transport call stands exactly if it was already made, the registers are reset,
and no response is given (R185; that this is one event which says which of the two happens is the model's choice, log entry 13). -/
def Obligations.ResetDuringRequest : Prop :=
  ∀ (s : State) (w : Req) (called : Bool), s.script[s.index]? = some (.abort w called) →
    ∃ u, serve w { s with index := s.index + 1 } = .next u ∧
    step s = .next { s with
      index := s.index + 1,
      block := { w0 := none, w1 := none, nw := 0, crcc := none, crcr := none },
      bus := if called then u.bus else s.bus }

/-! ### The host around the block -/

/-- The request words of the host's steps (R132, R136 to R142). -/
def Obligations.HostRequestWords : Prop :=
  hostRequest .setupWake = some 0x10000001 ∧ hostRequest .setupReset = some 0x10000003 ∧
  hostRequest .setupReadId = some 0x10000002 ∧ hostRequest .setupRead = some 0x40000001 ∧
  hostRequest .setupDecode = some 0x60000000 ∧ (∀ v, hostRequest (.setupIdentity v) = some 0x50000000) ∧
  hostRequest .tickReset = some 0x10000003 ∧ hostRequest .tickWake = some 0x10000001 ∧
  hostRequest .tickPoll = some 0x10000004 ∧ hostRequest .readFrame = some 0x40000002 ∧
  hostRequest .convertTemp = some 0x70000000 ∧ (∀ d, hostRequest (.convertHum d) = some 0x80000000) ∧
  hostRequest .sleep = some 0x10000000 ∧ hostRequest .idle = none

/-- Setup of a device that answers: three writes, one read, then the variant and the raw word are stored (R132, R135). -/
def Obligations.SetupIdentifiesDevice : Prop :=
  ∀ (s : State) (bytes : Vector Byte 6) (as : List Bool) (rs : List ReadAnswer),
    s.host.phase = .setupWake → (∀ k < 6, s.script[s.index + k]? = some .proceed) →
    s.bus.writeAnswers = true :: true :: true :: as → s.bus.readAnswers = .ok bytes :: rs →
    crc8 bytes[0] bytes[1] = bytes[2] →
    ∃ t : State, Host.Core.run core 6 s = .next t ∧
      t.host = { s.host with
        variant := some (decodeId (bytes[0] ++ bytes[1])), identity := some (bytes[0] ++ bytes[1]), phase := .idle,
        log := s.host.log ++ [.identified (decodeId (bytes[0] ++ bytes[1])) (bytes[0] ++ bytes[1])] } ∧
      t.bus.calls = s.bus.calls ++ [.write 0x35 0x17, .write 0x80 0x5D, .write 0xEF 0xC8, .read 3]

/-- A failed setup is final: no step of any kind clears `FAILED` or sets the identity, nothing is published, and the host's
task issues no request (R133, R148). -/
def Obligations.FailedSetupIsFinal : Prop :=
  ∀ s t : State, s.Ok → s.host.failed = true → step s = .next t →
    t.host.failed = true ∧ t.host.variant = none ∧ t.host.identity = none ∧ t.host.phase = .idle ∧
    t.host.tempSink = s.host.tempSink ∧ t.host.humSink = s.host.humSink ∧
    ((∀ w, s.script[s.index]? ≠ some (.request w)) → (∀ w c, s.script[s.index]? ≠ some (.abort w c)) → t.bus = s.bus)

/-- Variant and identity are written once (R130, R135). -/
def Obligations.IdentityWrittenOnce : Prop :=
  ∀ (s t : State) (v : Variant), s.Ok → s.host.variant = some v → step s = .next t →
    t.host.variant = some v ∧ t.host.identity = s.host.identity

/-- The warning is set by exactly a failed poll or a failed read of a measurement. It is cleared by exactly the last step of a
completion after a read that succeeded: the host comes to the humidity's step only from the temperature's, and to that only
from a read answered without error (R143, C3). That it is cleared in the humidity's step, whatever that step's answer, is the
model's choice (log entries 15 and 23). -/
def Obligations.WarningChanges : Prop :=
  ∀ s t : State, step s = .next t →
    (s.host.warn = false → t.host.warn = true →
      s.script[s.index]? = some .proceed ∧ (s.host.phase = .tickPoll ∨ s.host.phase = .readFrame) ∧
      ∃ r, t.response = some r ∧ r.err ≠ .none) ∧
    (s.script[s.index]? = some .proceed → s.host.phase = .tickPoll ∨ s.host.phase = .readFrame →
      ∀ r, t.response = some r → r.err ≠ .none → t.host.warn = true) ∧
    (s.host.warn = true → t.host.warn = false →
      s.script[s.index]? = some .proceed ∧ ∃ temp, s.host.phase = .convertHum temp) ∧
    (s.script[s.index]? = some .proceed → ∀ temp, s.host.phase = .convertHum temp → t.host.warn = false) ∧
    (∀ temp, t.host.phase = .convertHum temp → s.host.phase = .convertHum temp ∨
      (s.script[s.index]? = some .proceed ∧ s.host.phase = .convertTemp)) ∧
    (t.host.phase = .convertTemp → s.host.phase = .convertTemp ∨
      (s.script[s.index]? = some .proceed ∧ s.host.phase = .readFrame ∧ ∃ d, t.response = some ⟨.none, d⟩))

/-- A poll that succeeds leaves one completion pending for 50 ms; the completion starts when what is left has passed, and only
then; nothing else removes it (R139, R147, R187). That time passes only in its own event, in which the completion starts, is
the model's choice (log entry 11). -/
def Obligations.CompletionWaits : Prop :=
  (∀ s : State, s.script[s.index]? = some .proceed → s.host.phase = .tickPoll → writeAnswer s.bus = true →
    ∃ t, step s = .next t ∧ t.host = { s.host with timer := some 50, phase := .idle }) ∧
  (∀ (s : State) (ms left : Nat), s.script[s.index]? = some (.elapse ms) → s.host.timer = some left → left ≤ ms →
    s.host.phase = .idle →
    step s = .next { s with index := s.index + 1, host := { s.host with timer := none, phase := .readFrame } }) ∧
  (∀ s t : State, step s = .next t → s.host.phase ≠ .readFrame → t.host.phase = .readFrame →
    ∃ ms left, s.script[s.index]? = some (.elapse ms) ∧ s.host.timer = some left ∧ left ≤ ms ∧ t.host.timer = none) ∧
  (∀ s t : State, step s = .next t → ∀ left, s.host.timer = some left → t.host.phase ≠ .readFrame →
    s.host.phase ≠ .tickPoll →
    t.host.timer = some left ∨ ∃ ms, s.script[s.index]? = some (.elapse ms) ∧ t.host.timer = some (left - ms))

/-- A failed poll publishes the marker to both sinks, sets the warning and ends the tick, and starts no wait for a completion;
in a state that meets the machine's invariant none is pending after it (R138, R144). The one line it adds to the log is the
model's reading of R145 (log entry 14). -/
def Obligations.FailedPollPublishesMarkers : Prop :=
  ∀ s : State, s.script[s.index]? = some .proceed → s.host.phase = .tickPoll → writeAnswer s.bus = false →
    ∃ t, step s = .next t ∧ t.response = some ⟨.busw, 0⟩ ∧ (s.Ok → t.host.pending = false) ∧
      t.host = { s.host with
        warn := true, phase := .idle, tempSink := s.host.tempSink.map (· ++ [s.nanBits]),
        humSink := s.host.humSink.map (· ++ [s.nanBits]), log := s.host.log ++ [.commandFailure] }

/-- A failed read of a measurement, of either kind, publishes the marker to both sinks, sets the warning and goes on to the
sleep step (R140, R142). -/
def Obligations.FailedReadPublishesMarkers : Prop :=
  ∀ s : State, s.script[s.index]? = some .proceed → s.host.phase = .readFrame →
    (∀ ws, readWords (readAnswer 6 s.bus) ≠ .words ws) →
    ∃ t, step s = .next t ∧ t.block.w0 = none ∧ t.block.w1 = none ∧
      t.host = { s.host with
        warn := true, phase := if s.host.variant = some .shtc3 ∨ s.host.variant = some .unknown then .sleep else .idle,
        tempSink := s.host.tempSink.map (· ++ [s.nanBits]), humSink := s.host.humSink.map (· ++ [s.nanBits]),
        log := t.host.log }

/-- A good read publishes both conversions, which depend on the frame's bytes alone, and clears the warning (R141, R142,
R151). -/
def Obligations.GoodReadPublishesValues : Prop :=
  ∀ (s : State) (hi lo hi' lo' : Byte), s.host.phase = .readFrame → (∀ k < 3, s.script[s.index + k]? = some .proceed) →
    readAnswer 6 s.bus = .ok [hi, lo, crc8 hi lo, hi', lo', crc8 hi' lo'] →
    ∃ t : State, Host.Core.run core 3 s = .next t ∧
      t.host = { s.host with
        warn := false, phase := if s.host.variant = some .shtc3 ∨ s.host.variant = some .unknown then .sleep else .idle,
        tempSink := s.host.tempSink.map (· ++ [cvtData (hi ++ lo)]),
        humSink := s.host.humSink.map (· ++ [cvhData (hi' ++ lo')]) }

/-- After a warning the next tick starts with a soft reset, and goes on to wake or poll whatever its answer; without a warning
it starts with the wake, or on an SHTC1 with the poll (R136, R137, R151). -/
def Obligations.TickStartsWithRecovery : Prop :=
  ∀ (s : State) (v : Variant), s.script[s.index]? = some .tick → s.host.failed = false → s.host.variant = some v →
    s.host.phase = .idle → s.host.timer = none →
    step s = .next { s with
      index := s.index + 1,
      host := { s.host with
        phase := if s.host.warn = true then .tickReset else if v = .shtc1 then .tickPoll else .tickWake } } ∧
    ∀ (nan : Req) (r : Response),
      absorb nan r { s.host with phase := .tickReset } =
        { s.host with phase := if v = .shtc1 then .tickPoll else .tickWake }

/-- A failure at the command or read step of setup is fatal: `FAILED` is set, `VARIANT` and `IDENTITY` stay unset, and setup
stops there (R133). A failed WakeUp or SoftReset of setup is fatal likewise, or ignored, as `SETUP_WAKE_RESET_FATAL` says, for
either value of it (R134; log entry 6). -/
def Obligations.SetupFailures : Prop :=
  (∀ s : State, s.Ok → s.script[s.index]? = some .proceed →
    (s.host.phase = .setupReadId ∧ writeAnswer s.bus = false) ∨
      (s.host.phase = .setupRead ∧ ∀ ws, readWords (readAnswer 3 s.bus) ≠ .words ws) →
    ∃ t, step s = .next t ∧ t.host.variant = none ∧ t.host.identity = none ∧
      t.host = { s.host with failed := true, phase := .idle, log := t.host.log }) ∧
  (∀ s : State, s.Ok → s.script[s.index]? = some .proceed → s.host.phase = .setupWake ∨ s.host.phase = .setupReset →
    writeAnswer s.bus = false →
    ∃ t, step s = .next t ∧ t.host.variant = none ∧ t.host.identity = none ∧
      t.host =
        if Config.setupWakeResetFatal = true then { s.host with failed := true, phase := .idle, log := t.host.log }
        else { s.host with phase := if s.host.phase = .setupWake then .setupReset else .setupReadId })

/-- The SoftReset and the WakeUp of a tick and the Sleep of a completion are best effort: whatever the transport answers, the
sequence goes on to its next step and nothing else of the host changes (R136, R137, R142). -/
def Obligations.IgnoredCommandResults : Prop :=
  ∀ s : State, s.script[s.index]? = some .proceed →
    (s.host.phase = .tickReset → ∃ t, step s = .next t ∧
      t.host = { s.host with
        phase := if s.host.variant = some .shtc3 ∨ s.host.variant = some .unknown then .tickWake else .tickPoll }) ∧
    (s.host.phase = .tickWake → ∃ t, step s = .next t ∧ t.host = { s.host with phase := .tickPoll }) ∧
    (s.host.phase = .sleep → ∃ t, step s = .next t ∧ t.host = { s.host with phase := .idle })
end

