-- ==== Sys2Proof/Laws/State.lean ====
section
/-! SUPPORT. What each update does to each field: one lemma a field, for every named update of the state, the block, the bus
and the host. -/

namespace Sys2Proof.Machine

/-! ### respond -/

@[simp] theorem respond_block (e : ErrCode) (d : Req) (s : State) :
    (respond e d s).block = s.block := rfl

@[simp] theorem respond_nanBits (e : ErrCode) (d : Req) (s : State) :
    (respond e d s).nanBits = s.nanBits := rfl

@[simp] theorem respond_response (e : ErrCode) (d : Req) (s : State) :
    (respond e d s).response = some ⟨e, d⟩ := rfl

@[simp] theorem respond_bus (e : ErrCode) (d : Req) (s : State) :
    (respond e d s).bus = s.bus := rfl

@[simp] theorem respond_script (e : ErrCode) (d : Req) (s : State) :
    (respond e d s).script = s.script := rfl

@[simp] theorem respond_index (e : ErrCode) (d : Req) (s : State) :
    (respond e d s).index = s.index := rfl

@[simp] theorem respond_host (e : ErrCode) (d : Req) (s : State) :
    (respond e d s).host = s.host := rfl

/-! ### raise -/

@[simp] theorem raise_block (e : ErrCode) (d : Req) (s : State) :
    (raise e d s).block = s.block := rfl

@[simp] theorem raise_nanBits (e : ErrCode) (d : Req) (s : State) :
    (raise e d s).nanBits = s.nanBits := rfl

@[simp] theorem raise_response (e : ErrCode) (d : Req) (s : State) :
    (raise e d s).response = some ⟨e, d⟩ := rfl

@[simp] theorem raise_bus (e : ErrCode) (d : Req) (s : State) :
    (raise e d s).bus = s.bus := rfl

@[simp] theorem raise_script (e : ErrCode) (d : Req) (s : State) :
    (raise e d s).script = s.script := rfl

@[simp] theorem raise_index (e : ErrCode) (d : Req) (s : State) :
    (raise e d s).index = s.index := rfl

@[simp] theorem raise_host (e : ErrCode) (d : Req) (s : State) :
    (raise e d s).host = s.host := rfl

/-! ### busWrite -/

@[simp] theorem busWrite_block (r p : Byte) (s : State) :
    ((busWrite r p s).2).block = s.block := rfl

@[simp] theorem busWrite_nanBits (r p : Byte) (s : State) :
    ((busWrite r p s).2).nanBits = s.nanBits := rfl

@[simp] theorem busWrite_response (r p : Byte) (s : State) :
    ((busWrite r p s).2).response = s.response := rfl

@[simp] theorem busWrite_bus (r p : Byte) (s : State) :
    ((busWrite r p s).2).bus = s.bus.afterWrite r p := rfl

@[simp] theorem busWrite_script (r p : Byte) (s : State) :
    ((busWrite r p s).2).script = s.script := rfl

@[simp] theorem busWrite_index (r p : Byte) (s : State) :
    ((busWrite r p s).2).index = s.index := rfl

@[simp] theorem busWrite_host (r p : Byte) (s : State) :
    ((busWrite r p s).2).host = s.host := rfl

/-! ### busRead -/

@[simp] theorem busRead_block (len : Nat) (s : State) :
    ((busRead len s).2).block = s.block := rfl

@[simp] theorem busRead_nanBits (len : Nat) (s : State) :
    ((busRead len s).2).nanBits = s.nanBits := rfl

@[simp] theorem busRead_response (len : Nat) (s : State) :
    ((busRead len s).2).response = s.response := rfl

@[simp] theorem busRead_bus (len : Nat) (s : State) :
    ((busRead len s).2).bus = s.bus.afterRead len := rfl

@[simp] theorem busRead_script (len : Nat) (s : State) :
    ((busRead len s).2).script = s.script := rfl

@[simp] theorem busRead_index (len : Nat) (s : State) :
    ((busRead len s).2).index = s.index := rfl

@[simp] theorem busRead_host (len : Nat) (s : State) :
    ((busRead len s).2).host = s.host := rfl

/-! ### setBlock -/

@[simp] theorem setBlock_block (s : State) (f : Block → Block) :
    (s.setBlock f).block = f s.block := rfl

@[simp] theorem setBlock_nanBits (s : State) (f : Block → Block) :
    (s.setBlock f).nanBits = s.nanBits := rfl

@[simp] theorem setBlock_response (s : State) (f : Block → Block) :
    (s.setBlock f).response = s.response := rfl

@[simp] theorem setBlock_bus (s : State) (f : Block → Block) :
    (s.setBlock f).bus = s.bus := rfl

@[simp] theorem setBlock_script (s : State) (f : Block → Block) :
    (s.setBlock f).script = s.script := rfl

@[simp] theorem setBlock_index (s : State) (f : Block → Block) :
    (s.setBlock f).index = s.index := rfl

@[simp] theorem setBlock_host (s : State) (f : Block → Block) :
    (s.setBlock f).host = s.host := rfl

/-! ### resetBlock -/

@[simp] theorem resetBlock_block (s : State) :
    (resetBlock s).block = Block.afterReset := rfl

@[simp] theorem resetBlock_nanBits (s : State) :
    (resetBlock s).nanBits = s.nanBits := rfl

@[simp] theorem resetBlock_response (s : State) :
    (resetBlock s).response = s.response := rfl

@[simp] theorem resetBlock_bus (s : State) :
    (resetBlock s).bus = s.bus := rfl

@[simp] theorem resetBlock_script (s : State) :
    (resetBlock s).script = s.script := rfl

@[simp] theorem resetBlock_index (s : State) :
    (resetBlock s).index = s.index := rfl

@[simp] theorem resetBlock_host (s : State) :
    (resetBlock s).host = s.host := rfl

/-! ### Block.dropWords -/

@[simp] theorem dropWords_w0 (b : Block) :
    (b.dropWords).w0 = none := rfl

@[simp] theorem dropWords_w1 (b : Block) :
    (b.dropWords).w1 = none := rfl

@[simp] theorem dropWords_nw (b : Block) :
    (b.dropWords).nw = 0 := rfl

@[simp] theorem dropWords_crcc (b : Block) :
    (b.dropWords).crcc = b.crcc := rfl

@[simp] theorem dropWords_crcr (b : Block) :
    (b.dropWords).crcr = b.crcr := rfl

/-! ### Block.loadWords -/

@[simp] theorem loadWords_w0 (b : Block) (ws : List Word) :
    (b.loadWords ws).w0 = ws[0]? := rfl

@[simp] theorem loadWords_w1 (b : Block) (ws : List Word) :
    (b.loadWords ws).w1 = ws[1]? := rfl

@[simp] theorem loadWords_nw (b : Block) (ws : List Word) :
    (b.loadWords ws).nw = BitVec.ofNat 2 ws.length := rfl

@[simp] theorem loadWords_crcc (b : Block) (ws : List Word) :
    (b.loadWords ws).crcc = b.crcc := rfl

@[simp] theorem loadWords_crcr (b : Block) (ws : List Word) :
    (b.loadWords ws).crcr = b.crcr := rfl

/-! ### Block.setCrc -/

@[simp] theorem setCrc_w0 (b : Block) (x y : Byte) :
    (b.setCrc x y).w0 = b.w0 := rfl

@[simp] theorem setCrc_w1 (b : Block) (x y : Byte) :
    (b.setCrc x y).w1 = b.w1 := rfl

@[simp] theorem setCrc_nw (b : Block) (x y : Byte) :
    (b.setCrc x y).nw = b.nw := rfl

@[simp] theorem setCrc_crcc (b : Block) (x y : Byte) :
    (b.setCrc x y).crcc = some x := rfl

@[simp] theorem setCrc_crcr (b : Block) (x y : Byte) :
    (b.setCrc x y).crcr = some y := rfl

/-! ### Block.afterReset -/

@[simp] theorem afterReset_w0 :
    (Block.afterReset).w0 = none := rfl

@[simp] theorem afterReset_w1 :
    (Block.afterReset).w1 = none := rfl

@[simp] theorem afterReset_nw :
    (Block.afterReset).nw = 0 := rfl

@[simp] theorem afterReset_crcc :
    (Block.afterReset).crcc = none := rfl

@[simp] theorem afterReset_crcr :
    (Block.afterReset).crcr = none := rfl

/-! ### Bus.afterWrite -/

@[simp] theorem afterWrite_calls (b : Bus) (r p : Byte) :
    (b.afterWrite r p).calls = b.calls ++ [.write r p] := rfl

@[simp] theorem afterWrite_writeAnswers (b : Bus) (r p : Byte) :
    (b.afterWrite r p).writeAnswers = b.writeAnswers.tail := rfl

@[simp] theorem afterWrite_readAnswers (b : Bus) (r p : Byte) :
    (b.afterWrite r p).readAnswers = b.readAnswers := rfl

@[simp] theorem afterWrite_draws (b : Bus) (r p : Byte) :
    (b.afterWrite r p).draws = b.draws + 1 := rfl

/-! ### Bus.afterRead -/

@[simp] theorem afterRead_calls (b : Bus) (len : Nat) :
    (b.afterRead len).calls = b.calls ++ [.read len] := rfl

@[simp] theorem afterRead_writeAnswers (b : Bus) (len : Nat) :
    (b.afterRead len).writeAnswers = b.writeAnswers := rfl

@[simp] theorem afterRead_readAnswers (b : Bus) (len : Nat) :
    (b.afterRead len).readAnswers = b.readAnswers.tail := rfl

@[simp] theorem afterRead_draws (b : Bus) (len : Nat) :
    (b.afterRead len).draws = b.draws + 1 := rfl

/-! ### HostState.publish -/

@[simp] theorem publish_variant (h : HostState) (x y : Req) :
    (h.publish x y).variant = h.variant := rfl

@[simp] theorem publish_identity (h : HostState) (x y : Req) :
    (h.publish x y).identity = h.identity := rfl

@[simp] theorem publish_warn (h : HostState) (x y : Req) :
    (h.publish x y).warn = h.warn := rfl

@[simp] theorem publish_failed (h : HostState) (x y : Req) :
    (h.publish x y).failed = h.failed := rfl

@[simp] theorem publish_timer (h : HostState) (x y : Req) :
    (h.publish x y).timer = h.timer := rfl

@[simp] theorem publish_phase (h : HostState) (x y : Req) :
    (h.publish x y).phase = h.phase := rfl

@[simp] theorem publish_tempSink (h : HostState) (x y : Req) :
    (h.publish x y).tempSink = h.tempSink.map (· ++ [x]) := rfl

@[simp] theorem publish_humSink (h : HostState) (x y : Req) :
    (h.publish x y).humSink = h.humSink.map (· ++ [y]) := rfl

@[simp] theorem publish_log (h : HostState) (x y : Req) :
    (h.publish x y).log = h.log := rfl

/-! ### HostState.note -/

@[simp] theorem note_variant (h : HostState) (l : LogLine) :
    (h.note l).variant = h.variant := rfl

@[simp] theorem note_identity (h : HostState) (l : LogLine) :
    (h.note l).identity = h.identity := rfl

@[simp] theorem note_warn (h : HostState) (l : LogLine) :
    (h.note l).warn = h.warn := rfl

@[simp] theorem note_failed (h : HostState) (l : LogLine) :
    (h.note l).failed = h.failed := rfl

@[simp] theorem note_timer (h : HostState) (l : LogLine) :
    (h.note l).timer = h.timer := rfl

@[simp] theorem note_phase (h : HostState) (l : LogLine) :
    (h.note l).phase = h.phase := rfl

@[simp] theorem note_tempSink (h : HostState) (l : LogLine) :
    (h.note l).tempSink = h.tempSink := rfl

@[simp] theorem note_humSink (h : HostState) (l : LogLine) :
    (h.note l).humSink = h.humSink := rfl

@[simp] theorem note_log (h : HostState) (l : LogLine) :
    (h.note l).log = h.log ++ [l] := rfl

/-! ### HostState.goTo -/

@[simp] theorem goTo_variant (h : HostState) (p : Phase) :
    (h.goTo p).variant = h.variant := rfl

@[simp] theorem goTo_identity (h : HostState) (p : Phase) :
    (h.goTo p).identity = h.identity := rfl

@[simp] theorem goTo_warn (h : HostState) (p : Phase) :
    (h.goTo p).warn = h.warn := rfl

@[simp] theorem goTo_failed (h : HostState) (p : Phase) :
    (h.goTo p).failed = h.failed := rfl

@[simp] theorem goTo_timer (h : HostState) (p : Phase) :
    (h.goTo p).timer = h.timer := rfl

@[simp] theorem goTo_phase (h : HostState) (p : Phase) :
    (h.goTo p).phase = p := rfl

@[simp] theorem goTo_tempSink (h : HostState) (p : Phase) :
    (h.goTo p).tempSink = h.tempSink := rfl

@[simp] theorem goTo_humSink (h : HostState) (p : Phase) :
    (h.goTo p).humSink = h.humSink := rfl

@[simp] theorem goTo_log (h : HostState) (p : Phase) :
    (h.goTo p).log = h.log := rfl

/-! ### HostState.failSetup -/

@[simp] theorem failSetup_variant (h : HostState) :
    (h.failSetup).variant = h.variant := rfl

@[simp] theorem failSetup_identity (h : HostState) :
    (h.failSetup).identity = h.identity := rfl

@[simp] theorem failSetup_warn (h : HostState) :
    (h.failSetup).warn = h.warn := rfl

@[simp] theorem failSetup_failed (h : HostState) :
    (h.failSetup).failed = true := rfl

@[simp] theorem failSetup_timer (h : HostState) :
    (h.failSetup).timer = h.timer := rfl

@[simp] theorem failSetup_phase (h : HostState) :
    (h.failSetup).phase = .idle := rfl

@[simp] theorem failSetup_tempSink (h : HostState) :
    (h.failSetup).tempSink = h.tempSink := rfl

@[simp] theorem failSetup_humSink (h : HostState) :
    (h.failSetup).humSink = h.humSink := rfl

@[simp] theorem failSetup_log (h : HostState) :
    (h.failSetup).log = h.log := rfl

/-! ### HostState.warnInvalid -/

@[simp] theorem warnInvalid_variant (h : HostState) (x : Req) :
    (h.warnInvalid x).variant = h.variant := rfl

@[simp] theorem warnInvalid_identity (h : HostState) (x : Req) :
    (h.warnInvalid x).identity = h.identity := rfl

@[simp] theorem warnInvalid_warn (h : HostState) (x : Req) :
    (h.warnInvalid x).warn = true := rfl

@[simp] theorem warnInvalid_failed (h : HostState) (x : Req) :
    (h.warnInvalid x).failed = h.failed := rfl

@[simp] theorem warnInvalid_timer (h : HostState) (x : Req) :
    (h.warnInvalid x).timer = h.timer := rfl

@[simp] theorem warnInvalid_phase (h : HostState) (x : Req) :
    (h.warnInvalid x).phase = h.phase := rfl

@[simp] theorem warnInvalid_tempSink (h : HostState) (x : Req) :
    (h.warnInvalid x).tempSink = h.tempSink.map (· ++ [x]) := rfl

@[simp] theorem warnInvalid_humSink (h : HostState) (x : Req) :
    (h.warnInvalid x).humSink = h.humSink.map (· ++ [x]) := rfl

@[simp] theorem warnInvalid_log (h : HostState) (x : Req) :
    (h.warnInvalid x).log = h.log := rfl

end Sys2Proof.Machine
end

