-- ==== Sys2Proof/Laws/Ops.lean ====
section
/-! SUPPORT. One lemma for each shared operation that says everything it can do; later proofs cite these. -/

namespace Sys2Proof.Machine

/-- Raising an error is responding with it. -/
theorem raise_eq (e : ErrCode) (d : Req) (s : State) : raise e d s = { s with response := some ⟨e, d⟩ } := rfl

/-- Responding writes the response and nothing else. -/
theorem respond_eq (e : ErrCode) (d : Req) (s : State) : respond e d s = { s with response := some ⟨e, d⟩ } := rfl

@[simp] theorem writeAnswer_listed (b : Bus) (a : Bool) (as : List Bool) (h : b.writeAnswers = a :: as) :
    writeAnswer b = a := by
  simp [writeAnswer, h]

@[simp] theorem writeAnswer_free (b : Bus) (h : b.writeAnswers = []) : writeAnswer b = Config.busWriteOk b.draws := by
  simp [writeAnswer, h]

@[simp] theorem readAnswer_listed_notOk (len : Nat) (b : Bus) (as : List ReadAnswer)
    (h : b.readAnswers = .notOk :: as) : readAnswer len b = .notOk := by
  simp [readAnswer, h]

@[simp] theorem readAnswer_listed_ok (len : Nat) (b : Bus) (bytes : Vector Byte 6) (as : List ReadAnswer)
    (h : b.readAnswers = .ok bytes :: as) : readAnswer len b = .ok (bytes.toList.take len) := by
  simp [readAnswer, h]

/-- The end of `CMD`: an empty success, or `E_BUSW`. -/
theorem answerWrite_eq (ok : Bool) (s : State) :
    answerWrite ok s = { s with response := some (if ok then ⟨.none, 0⟩ else ⟨.busw, 0⟩) } := by
  cases ok <;> rfl

/-- `CMD` with a legal selector: one write of the code's two bytes, then the answer. -/
theorem runCmd_legal (sel : BitVec 3) (c : Word) (s : State) (h : cmdCode sel = some c) :
    runCmd sel s = { s with
      bus := s.bus.afterWrite (split c).1 (split c).2
      response := some (if writeAnswer s.bus then ⟨.none, 0⟩ else ⟨.busw, 0⟩) } := by
  simp only [runCmd, h, busWrite]
  exact answerWrite_eq _ _

/-- `CMD` with a selector past the table. -/
theorem runCmd_illegal (sel : BitVec 3) (s : State) (h : cmdCode sel = none) : runCmd sel s = raise .illarg 0 s := by
  simp [runCmd, h]

/-- `RDW` with a legal count is its transport call and then one of three arms. -/
theorem runRdw_legal (n : BitVec 3) (s : State) (h : countLegal n = true) :
    runRdw n s = finishRead (readAnswer (3 * n.toNat) s.bus) { s with bus := s.bus.afterRead (3 * n.toNat) } := by
  simp [runRdw, h, busRead]

/-- `RDW` with a count out of range. -/
theorem runRdw_illegal (n : BitVec 3) (s : State) (h : countLegal n = false) : runRdw n s = raise .illarg 0 s := by
  simp [runRdw, h]

/-- What the end of `RDW` can do: only the registers and the response change, and the registers in one of three ways. -/
theorem finishRead_cases (reply : BusReply) (s : State) :
    (readWords reply = .busReadFailed ∧
      finishRead reply s = { s with block := s.block.dropWords, response := some ⟨.busr, 0⟩ }) ∨
    (∃ g x y, readWords reply = .crcMismatch g x y ∧
      finishRead reply s =
        { s with block := s.block.dropWords.setCrc x y, response := some ⟨.crc, crcErrorData g x y⟩ }) ∨
    (∃ ws, readWords reply = .words ws ∧
      finishRead reply s = { s with block := storeFrame reply.frame ws s.block, response := some ⟨.none, 0⟩ }) := by
  unfold finishRead
  cases h : readWords reply with
  | busReadFailed => exact .inl ⟨rfl, rfl⟩
  | crcMismatch g x y => exact .inr (.inl ⟨g, x, y, rfl, rfl⟩)
  | words ws => exact .inr (.inr ⟨ws, rfl, rfl⟩)

/-- The decoders answer or raise `E_NOWORD`; either way only the response changes. -/
theorem decodeWith_eq (reg : Option Word) (marker : Req) (f : Word → Req) (s : State) :
    decodeWith reg marker f s =
      { s with response := some (reg.elim ⟨.noword, marker⟩ fun w => ⟨.none, f w⟩) } := by
  cases reg <;> rfl

/-- What `GET` can do: it answers the content, or raises one of two errors; only the response changes. -/
theorem runGet_cases (r : BitVec 3) (s : State) :
    (regLegal r = false ∧ runGet r s = raise .illarg 0 s) ∨
    (regLegal r = true ∧ regContent r s.block = none ∧ runGet r s = raise .noword 0 s) ∨
    (regLegal r = true ∧ ∃ d, regContent r s.block = some d ∧ runGet r s = respond .none d s) := by
  unfold runGet
  cases regLegal r <;> cases regContent r s.block <;> simp

/-- A request word that is an instruction is executed. -/
theorem serve_ok (w : Req) (i : Instr) (s : State) (h : decode w = .ok i) : serve w s = exec i s := by
  simp [serve, h]

/-- A request word that is no instruction raises the decoder's error. -/
theorem serve_error (w : Req) (e : DecodeError) (s : State) (h : decode w = .error e) :
    serve w s = .next (raise (decodeErrCode e) 0 s) := by
  simp [serve, h]

/-- Serving a request always answers, and leaves everything that is not the block's, the transport's or the response's. -/
theorem serve_next (w : Req) (s : State) : ∃ t r, serve w s = .next t ∧ t.response = some r ∧ t.host = s.host ∧
    t.nanBits = s.nanBits ∧ t.script = s.script ∧ t.index = s.index := by
  cases hd : decode w with
  | error e => exact ⟨_, _, serve_error w e s hd, rfl, rfl, rfl, rfl, rfl⟩
  | ok i =>
    rw [serve_ok w i s hd]
    cases i with
    | cmd c =>
      cases hc : cmdCode c with
      | none => exact ⟨_, _, congrArg Host.Outcome.next (runCmd_illegal c s hc), rfl, rfl, rfl, rfl, rfl⟩
      | some k => exact ⟨_, _, congrArg Host.Outcome.next (runCmd_legal c k s hc), rfl, rfl, rfl, rfl, rfl⟩
    | crc a b => exact ⟨_, _, rfl, rfl, rfl, rfl, rfl, rfl⟩
    | chk a b c => exact ⟨_, _, rfl, rfl, rfl, rfl, rfl, rfl⟩
    | rdw n =>
      cases hc : countLegal n with
      | false => exact ⟨_, _, congrArg Host.Outcome.next (runRdw_illegal n s hc), rfl, rfl, rfl, rfl, rfl⟩
      | true =>
        rcases finishRead_cases (readAnswer (3 * n.toNat) s.bus) { s with bus := s.bus.afterRead (3 * n.toNat) } with
          ⟨_, e⟩ | ⟨_, _, _, _, e⟩ | ⟨_, _, e⟩ <;>
          exact ⟨_, _, congrArg Host.Outcome.next ((runRdw_legal n s hc).trans e), rfl, rfl, rfl, rfl, rfl⟩
    | get r =>
      rcases runGet_cases r s with ⟨_, e⟩ | ⟨_, _, e⟩ | ⟨_, _, _, e⟩ <;>
        exact ⟨_, _, congrArg Host.Outcome.next e, rfl, rfl, rfl, rfl, rfl⟩
    | idd => exact ⟨_, _, congrArg Host.Outcome.next (decodeWith_eq _ _ _ s), rfl, rfl, rfl, rfl, rfl⟩
    | cvt => exact ⟨_, _, congrArg Host.Outcome.next (decodeWith_eq _ _ _ s), rfl, rfl, rfl, rfl, rfl⟩
    | cvh => exact ⟨_, _, congrArg Host.Outcome.next (decodeWith_eq _ _ _ s), rfl, rfl, rfl, rfl, rfl⟩

/-- What a step can be: one event of the script, taken with the index past it, or the end of the run. -/
theorem step_cases (s : State) :
    (∃ e, s.script[s.index]? = some e ∧ step s = runEvent e { s with index := s.index + 1 }) ∨
    (s.script[s.index]? = none ∧ step s = .fault .endOfRun) := by
  cases h : s.script[s.index]? with
  | none => exact .inr ⟨rfl, by simp [step, nextEvent, h]⟩
  | some e => exact .inl ⟨e, rfl, by simp [step, nextEvent, h]⟩

/-- The host's own request: what the block does with it, and then what the host does with the response. -/
theorem hostProceed_eq (s : State) (w : Req) (h : hostRequest s.host.phase = some w) (t : State)
    (ht : serve w s = .next t) : hostProceed s = .next (takeResponse t) := by
  simp [hostProceed, h, ht]

end Sys2Proof.Machine
end

