-- ==== Sys2Proof/Laws/Host.lean ====
section
/-! SUPPORT. What one step can do to the host: the steps of its task by the kind of request, and all that any step can do. -/

namespace Sys2Proof.Machine

/-- What the host's task does when its current request decodes to an instruction that answers. -/
theorem step_proceed (s t : State) (w : Req) (i : Instr) (h : s.script[s.index]? = some .proceed)
    (hw : hostRequest s.host.phase = some w) (hi : decode w = .ok i)
    (ht : exec i { s with index := s.index + 1 } = .next t) : step s = .next (takeResponse t) := by
  have hs : serve w { s with index := s.index + 1 } = .next t := (serve_ok w i _ hi).trans ht
  simp [step, nextEvent, h, runEvent, hostProceed, hw, hs]

/-- The step in which the host's task sends a command: it takes an empty success or `E_BUSW`. -/
theorem step_proceed_cmd (s : State) (sel : BitVec 3) (c : Word) (h : s.script[s.index]? = some .proceed)
    (hw : hostRequest s.host.phase = some (encode (.cmd sel))) (hc : cmdCode sel = some c) :
    step s = .next { s with
      index := s.index + 1
      bus := s.bus.afterWrite (split c).1 (split c).2
      response := some (if writeAnswer s.bus then ⟨.none, 0⟩ else ⟨.busw, 0⟩)
      host := absorb s.nanBits (if writeAnswer s.bus then ⟨.none, 0⟩ else ⟨.busw, 0⟩) s.host } :=
  step_proceed s _ _ (.cmd sel) h hw ((by decide : ∀ x : BitVec 3, decode (encode (.cmd x)) = .ok (.cmd x)) sel)
    (congrArg Host.Outcome.next (runCmd_legal sel c { s with index := s.index + 1 } hc))

/-- The step in which the host's task reads a frame. -/
theorem step_proceed_rdw (s : State) (n : BitVec 3) (h : s.script[s.index]? = some .proceed)
    (hw : hostRequest s.host.phase = some (encode (.rdw n))) :
    step s = .next (takeResponse (runRdw n { s with index := s.index + 1 })) :=
  step_proceed s _ _ (.rdw n) h hw ((by decide : ∀ x : BitVec 3, decode (encode (.rdw x)) = .ok (.rdw x)) n) rfl

/-- All a step can do to the host: it takes the response to its task's request, or one of its own events changes it, or it is
as before. -/
theorem step_host_cases (s t : State) (h : step s = .next t) :
    (s.script[s.index]? = some .proceed ∧ s.host.phase ≠ .idle ∧
      ∃ r, t.response = some r ∧ t.host = absorb s.nanBits r s.host) ∨
    (s.script[s.index]? = some .setup ∧ s.host.phase = .idle ∧ s.host.failed = false ∧ s.host.variant = none ∧
      t.host = s.host.goTo .setupWake) ∨
    (s.script[s.index]? = some .tick ∧ s.host.phase = .idle ∧ s.host.failed = false ∧ s.host.variant ≠ none ∧
      s.host.timer = none ∧ t.host = s.host.goTo (if s.host.warn then .tickReset else afterWarmUp s.host)) ∨
    (∃ ms left, s.script[s.index]? = some (.elapse ms) ∧ s.host.timer = some left ∧
      ((left ≤ ms ∧ s.host.phase = .idle ∧ t.host = { s.host with timer := none, phase := .readFrame }) ∨
        (¬(left ≤ ms ∧ s.host.phase = .idle) ∧ t.host = { s.host with timer := some (left - ms) }))) ∨
    (s.script[s.index]? = some .dump ∧ t.host = s.host.note (.configDump s.host.variant s.host.failed)) ∨
    (t.host = s.host ∧ (s.script[s.index]? = some .proceed → s.host.phase = .idle)) := by
  obtain ⟨e, he, hs⟩ | ⟨_, hs⟩ := step_cases s
  swap
  · rw [hs] at h; cases h
  rw [hs] at h
  have other (hne : e ≠ .proceed) (hp : s.script[s.index]? = some .proceed) : s.host.phase = .idle :=
    absurd (Option.some.inj (he.symm.trans hp)) hne
  cases e with
  | request w =>
    obtain ⟨u, _, hu, _, hh, _⟩ := serve_next w { s with index := s.index + 1 }
    cases hu.symm.trans h
    exact .inr (.inr (.inr (.inr (.inr ⟨hh, other nofun⟩))))
  | reset => cases h; exact .inr (.inr (.inr (.inr (.inr ⟨rfl, other nofun⟩))))
  | abort w called =>
    obtain ⟨u, _, hu, _⟩ := serve_next w { s with index := s.index + 1 }
    simp only [runEvent, abortRequest, hu] at h
    cases h
    exact .inr (.inr (.inr (.inr (.inr ⟨rfl, other nofun⟩))))
  | setup =>
    simp only [runEvent, hostSetup] at h
    split at h
    · cases h
    split at h
    · cases h
    cases h
    refine .inr (.inl ⟨he, ?_⟩)
    simp_all
  | tick =>
    simp only [runEvent, hostTick] at h
    split at h
    · cases h
      exact .inr (.inr (.inr (.inr (.inr ⟨rfl, other nofun⟩))))
    split at h
    · cases h
    split at h
    · cases h
    cases h
    refine .inr (.inr (.inl ⟨he, ?_⟩))
    simp_all [HostState.pending]
  | elapse ms =>
    simp only [runEvent, hostElapse] at h
    cases ht : s.host.timer with
    | none =>
      simp only [ht] at h
      cases h
      exact .inr (.inr (.inr (.inr (.inr ⟨rfl, other nofun⟩))))
    | some left =>
      simp only [ht] at h
      refine .inr (.inr (.inr (.inl ⟨ms, left, he, rfl, ?_⟩)))
      split at h <;> cases h
      · exact .inl ⟨by simp_all, by simp_all, rfl⟩
      · exact .inr ⟨by assumption, rfl⟩
  | proceed =>
    simp only [runEvent, hostProceed] at h
    cases hw : hostRequest s.host.phase with
    | none =>
      simp only [hw] at h
      cases h
      exact .inr (.inr (.inr (.inr (.inr ⟨rfl, fun _ => by cases hp : s.host.phase <;> simp [hp, hostRequest] at hw ⊢⟩))))
    | some w =>
      obtain ⟨u, r, hu, hr, hh, hn, _⟩ := serve_next w { s with index := s.index + 1 }
      simp only [hw, hu] at h
      cases h
      refine .inl ⟨he, fun hp => by simp [hp, hostRequest] at hw, r, ?_⟩
      simp [takeResponse, hr, hh, hn]
  | dump => cases h; exact .inr (.inr (.inr (.inr (.inl ⟨he, rfl⟩))))

end Sys2Proof.Machine
end

