-- ==== Sys2Proof/Laws/PerInstr.lean ====
section
/-! SUPPORT. The fields of a request word, and statements made once per constructor of `Instr`. -/

namespace Sys2Proof

@[simp] theorem opField_requestWord (op : BitVec 4) (arg : BitVec 24) : opField (requestWord op arg) = op := by
  simp only [opField, requestWord]
  rw [BitVec.extractLsb'_append_eq_of_le (by omega), BitVec.extractLsb'_append_eq_of_le (by omega)]
  simp

@[simp] theorem rsvField_requestWord (op : BitVec 4) (arg : BitVec 24) : rsvField (requestWord op arg) = 0 := by
  simp only [rsvField, requestWord]
  rw [BitVec.extractLsb'_append_eq_of_le (by omega), BitVec.extractLsb'_append_eq_of_add_le (by omega)]
  simp

/-- A field inside the operand field is the same in the whole word. -/
theorem extract_requestWord (op : BitVec 4) (arg : BitVec 24) (start len : Nat) (h : start + len ≤ 24) :
    (requestWord op arg).extractLsb' start len = arg.extractLsb' start len := by
  simp only [requestWord]
  rw [BitVec.extractLsb'_append_eq_of_add_le h]

/-- A number put together from two bit fields. -/
theorem toNat_append_eq {n m : Nat} (x : BitVec n) (y : BitVec m) : (x ++ y).toNat = x.toNat * 2 ^ m + y.toNat := by
  rw [BitVec.toNat_append, ← Nat.shiftLeft_add_eq_or_of_lt y.isLt, Nat.shiftLeft_eq]

theorem toNat_requestWord (op : BitVec 4) (arg : BitVec 24) :
    (requestWord op arg).toNat = op.toNat * 2 ^ 28 + arg.toNat := by
  simp only [requestWord]
  rw [toNat_append_eq, toNat_append_eq]
  simp [Nat.mul_assoc]

namespace Laws.OpField

/-- The request word of an instruction has `rsv` zero and an `op` between 1 and 8 (30_encoding R50, R51). -/
def Statement (i : Instr) : Prop :=
  rsvField (encode i) = 0 ∧ 1 ≤ (opField (encode i)).toNat ∧ (opField (encode i)).toNat ≤ 8

theorem cmd (s : BitVec 3) : Statement (.cmd s) := by simp [Statement, encode]
theorem crc (a b : Byte) : Statement (.crc a b) := by simp [Statement, encode]
theorem chk (hi lo c : Byte) : Statement (.chk hi lo c) := by simp [Statement, encode]
theorem rdw (n : BitVec 3) : Statement (.rdw n) := by simp [Statement, encode]
theorem get (r : BitVec 3) : Statement (.get r) := by simp [Statement, encode]
theorem idd : Statement .idd := by simp [Statement, encode]
theorem cvt : Statement .cvt := by simp [Statement, encode]
theorem cvh : Statement .cvh := by simp [Statement, encode]

end Laws.OpField

end Sys2Proof
end

