-- ==== Sys2Proof/Tests/Slice0.lean ====
section
/-! SUPPORT. Tests of the model on the spec's own vectors (95_test_vectors), and for each statement with hypotheses a state and
operands that meet them together. -/

namespace Sys2Proof.Tests

open Sys2Proof Sys2Proof.Machine

/-! ### Ill-formed operands -/

theorem test_wf_refuses_selector : Instr.wf (.cmd 5) = false := by decide
theorem test_wf_refuses_count_zero : Instr.wf (.rdw 0) = false := by decide
theorem test_wf_refuses_count_three : Instr.wf (.rdw 3) = false := by decide
theorem test_wf_refuses_register : Instr.wf (.get 5) = false := by decide
theorem test_wf_accepts_ends :
    [Instr.cmd 0, .cmd 4, .rdw 1, .rdw 2, .get 0, .get 4, .crc 255 255, .chk 0 0 0, .idd, .cvt, .cvh].all Instr.wf = true := by
  decide

/-! ### Words written out bit by bit from the opcode map (30_encoding section 7) -/

theorem test_decode_cmd : decodeTableWord 32 0b00010000000000000000000000000100 = some (.cmd 4) := by decide
theorem test_decode_crc : decodeTableWord 32 0b00100000000000001011111011101111 = some (.crc 0xBE 0xEF) := by decide
theorem test_decode_chk : decodeTableWord 32 0b00110000101111101110111110010010 = some (.chk 0xBE 0xEF 0x92) := by decide
theorem test_decode_rdw : decodeTableWord 32 0b01000000000000000000000000000010 = some (.rdw 2) := by decide
theorem test_decode_get : decodeTableWord 32 0b01010000000000000000000000000011 = some (.get 3) := by decide
theorem test_decode_idd : decodeTableWord 32 0b01100000000000000000000000000000 = some .idd := by decide
theorem test_decode_cvt : decodeTableWord 32 0b01110000000000000000000000000000 = some .cvt := by decide
theorem test_decode_cvh : decodeTableWord 32 0b10000000000000000000000000000000 = some .cvh := by decide
theorem test_decode_refuses :
    [0x00000000, 0xFFFFFFFF, 0x90000000, 0x0F000000, 0x11000000, 0x10000008, 0x2001BEEF, 0x3F000000, 0x40000009, 0x60000001,
      0x70800000, 0x80000001].all (fun w => decodeTableWord 32 w == none) = true := by decide
theorem test_encode_words :
    encode (.cmd 3) = 0x10000003 ∧ encode (.crc 0x12 0x34) = 0x20001234 ∧ encode (.chk 0xFF 0 0) = 0x30FF0000 ∧
    encode (.rdw 1) = 0x40000001 ∧ encode (.get 4) = 0x50000004 ∧ encode .cvh = 0x80000000 := by decide

/-! ### One step on small states -/

/-- The state after reset with these registers. -/
def st (w0 w1 : Option Word) (nw : BitVec 2) (c r : Option Byte) : State :=
  { State.reset with block := ⟨w0, w1, nw, c, r⟩ }

/-- The good frame's state of program P2. -/
def good : State := st (some 0x6666) (some 0x8000) 2 (some 0xA2) (some 0xA2)

/-- A state whose transport has these answers ready. -/
def answering (ws : List Bool) (rs : List ReadAnswer) (s : State) : State :=
  { s with bus := { s.bus with writeAnswers := ws, readAnswers := rs } }

/-- The response and the registers after the request word `w` runs as the next event. -/
def ask (s : State) (w : Nat) : Option (Option Response × Block) :=
  match step (s.withFetchWord 32 w) with
  | .next t => some (t.response, t.block)
  | _ => none

/-- The frame `66 66 93 80 00 A2` of program P2. -/
def frameP2 : ReadAnswer := .ok #v[0x66, 0x66, 0x93, 0x80, 0x00, 0xA2]

/-- The frame `64 8B C7 9C 40 44` of program P3: its second group is corrupted. -/
def frameP3 : ReadAnswer := .ok #v[0x64, 0x8B, 0xC7, 0x9C, 0x40, 0x44]

theorem test_cmd_not_ok : ask (answering [false] [] good) 0x10000004 = some (some ⟨.busw, 0⟩, good.block) := by decide
theorem test_cmd_calls : (match step ((answering [true] [] good).withFetchWord 32 0x10000002) with
    | .next t => t.bus.calls | _ => []) = [.write 0xEF 0xC8] := by decide
theorem test_crc_of_zeros : ask good 0x20000000 = some (some ⟨.none, 0x81⟩, good.block) := by decide +kernel
theorem test_crc_order : ask good 0x20000001 = some (some ⟨.none, 0xB0⟩, good.block) := by decide +kernel
theorem test_chk_match : ask good 0x30BEEF92 = some (some ⟨.none, 0xBEEF0192⟩, good.block) := by decide +kernel
theorem test_chk_mismatch : ask good 0x30BFEF92 = some (some ⟨.none, 0xBFEF0066⟩, good.block) := by decide +kernel
theorem test_rdw_two : ask (answering [] [frameP2] State.reset) 0x40000002 = some (some ⟨.none, 0⟩, good.block) := by decide +kernel
theorem test_rdw_second_bad : ask (answering [] [frameP3] good) 0x40000002 =
    some (some ⟨.crc, 0x00014544⟩, ⟨none, none, 0, some 0x45, some 0x44⟩) := by decide +kernel
theorem test_get_stale_none : ask (st (some 0x0887) none 1 (some 0x5B) (some 0x5B)) 0x50000001 =
    some (some ⟨.noword, 0⟩, ⟨some 0x0887, none, 1, some 0x5B, some 0x5B⟩) := by decide
theorem test_get_nw_after_reset : ask State.reset 0x50000002 = some (some ⟨.none, 0⟩, Block.afterReset) := by decide
theorem test_idd_bit5 : (ask (st (some 0x0027) none 1 (some 0) (some 0)) 0x60000000).map (·.1) = some (some ⟨.none, 6⟩) := by
  decide
theorem test_idd_shtc3 : (ask (st (some 0xFFC7) none 1 (some 0) (some 0)) 0x60000000).map (·.1) = some (some ⟨.none, 5⟩) := by
  decide
theorem test_cvt_nearest_zero : (ask (st (some 0x41D4) none 1 (some 0) (some 0)) 0x70000000).map (·.1) =
    some (some ⟨.none, 0xB9A00000⟩) := by decide
theorem test_cvt_top : (ask (st (some 0xFFFF) none 1 (some 0) (some 0)) 0x70000000).map (·.1) =
    some (some ⟨.none, 0x4301FF51⟩) := by decide
theorem test_cvh_zero : (ask (st (some 0) (some 0) 2 (some 0) (some 0)) 0x80000000).map (·.1) = some (some ⟨.none, 0⟩) := by
  decide
theorem test_cvh_no_value : (ask State.reset 0x80000000).map (·.1) = some (some ⟨.noword, 0x7FC00000⟩) := by decide
theorem test_decode_error_first : (ask State.reset 0x70000001).map (·.1) = some (some ⟨.illarg, 0⟩) := by decide
theorem test_count_out_of_range : ask good 0x40000003 = some (some ⟨.illarg, 0⟩, good.block) := by decide
theorem test_packed : Response.packed ⟨.crc, 0x00014544⟩ = 0x600014544#36 := by decide

/-- Each row's operation runs as the first event after reset, whatever the transport answers. -/
theorem test_every_row_runs_first :
    [0x10000000, 0x20000000, 0x30000000, 0x40000000, 0x40000001, 0x50000000, 0x60000000, 0x70000000, 0x80000000].all
      (fun w => match step (State.reset.withFetchWord 32 w) with | .next _ => true | _ => false) = true := by
  decide +kernel

/-! ### The assembler's lines (30_encoding R66, R67) -/

theorem test_assemble_crc :
    assemble ['C', 'R', 'C', ' ', '0', 'x', 'B', 'E', ',', ' ', '0', 'x', 'e', 'f', ';'] = some 0x2000BEEF := by decide
theorem test_assemble_get : assemble ['G', 'E', 'T', ' ', 'N', 'W'] = some 0x50000002 := by decide
theorem test_assemble_pseudo : assemble ['P', 'O', 'L', 'L', 'H', 'P'] = some 0x10000004 := by decide
/-- Blanks before the mnemonic (log entry 20). -/
theorem test_assemble_leading_blank : assemble [' ', '\t', 'I', 'D', 'D', ' '] = some 0x60000000 := by decide
theorem test_assemble_refuses : assemble ['R', 'D', 'W', ' ', '3'] = none := by decide

/-! ### The host (44_host_sequences) -/

/-- A host past setup on an SHTC3, at a step of its sequence. -/
def hostAt (p : Phase) (warn : Bool) (timer : Option Nat) : HostState :=
  { State.reset.host with variant := some .shtc3, identity := some 0x0887, warn := warn, timer := timer, phase := p }

/-- A state with this host and this script. -/
def scene (h : HostState) (es : List Event) : State := { State.reset with host := h, script := es }

theorem test_elapse_not_yet : (hostElapse 49 (scene (hostAt .idle false (some 50)) [])).host.phase = .idle := by decide
theorem test_elapse_due : (hostElapse 50 (scene (hostAt .idle false (some 50)) [])).host.phase = .readFrame := by decide
theorem test_sleep_after_read : (absorb 0 ⟨.busr, 0⟩ (hostAt .readFrame false none)).phase = .sleep := by decide
theorem test_ignored_wake : (absorb 0 ⟨.busw, 0⟩ (hostAt .tickWake false none)).warn = false := by decide
theorem test_setup_read_failure : (absorb 0 ⟨.crc, 0x00005B5A⟩ { State.reset.host with phase := .setupRead }).log =
    [.crcMismatch 0x5B 0x5A] := by decide

/-! ### Witnesses: the hypotheses of each statement hold together somewhere -/

theorem test_witness_EncodeOfDecode : decode 0x40000002 = .ok (.rdw 2) := rfl

theorem test_witness_IllegalOperation :
    (0x0F000000 : Req).extractLsb' 28 4 = 0 ∧ 9 ≤ ((0x90000000 : Req).extractLsb' 28 4).toNat ∧
    9 ≤ ((0xFFFFFFFF : Req).extractLsb' 28 4).toNat := by decide

theorem test_witness_IllegalOperand :
    (0x11000000 : Req).extractLsb' 24 4 ≠ 0 ∧ (0x10000008 : Req).extractLsb' 3 21 ≠ 0 ∧
    (0x20010000 : Req).extractLsb' 16 8 ≠ 0 ∧ (0x60000001 : Req).extractLsb' 0 24 ≠ 0 ∧
    ((0x10000005 : Req).extractLsb' 0 3).toNat = 5 ∧ ((0x40000000 : Req).extractLsb' 0 3).toNat = 0 ∧
    ((0x40000003 : Req).extractLsb' 0 3).toNat = 3 ∧ ((0x50000005 : Req).extractLsb' 0 3).toNat = 5 := by decide

theorem test_witness_IllegalOperand_chk :
    (0x30FFFFFF : Req).extractLsb' 28 4 = 3 ∧ (0x30FFFFFF : Req).extractLsb' 24 4 = 0 := by decide

theorem test_witness_AssembledRequestsAreLegal : assemble ['C', 'V', 'T'] = some 0x70000000 := by decide

theorem test_witness_StepRunsDecoded :
    (State.reset.withFetchWord 32 0x70000000).script[(State.reset.withFetchWord 32 0x70000000).index]? =
      some (.request 0x70000000) ∧ decode 0x70000000 = .ok .cvt := ⟨by decide, rfl⟩

theorem test_witness_StepRunsDecoded_error :
    (State.reset.withFetchWord 32 0).script[(State.reset.withFetchWord 32 0).index]? = some (.request 0) ∧
    decode 0 = .error .illop := ⟨by decide, rfl⟩

theorem test_witness_HostStepRunsDecoded :
    let s := scene (hostAt .convertTemp false none) [.proceed]
    s.script[s.index]? = some .proceed ∧ hostRequest s.host.phase = some 0x70000000 ∧ decode 0x70000000 = .ok .cvt ∧
    exec .cvt { s with index := s.index + 1 } =
      .next { s with index := 1, response := some ⟨.noword, 0x7FC00000⟩ } := ⟨by decide, by decide, rfl, rfl⟩

theorem test_witness_RunEndsWithScript : State.reset.script[State.reset.index]? = none := by decide

theorem test_witness_AccessMatrix :
    exec (.get 2) State.reset = .next { State.reset with response := some ⟨.none, 0⟩ } := rfl

theorem test_witness_AccessMatrix_calls :
    exec (.rdw 0) State.reset = .next { State.reset with response := some ⟨.illarg, 0⟩ } ∧
    exec (.cmd 7) State.reset = .next { State.reset with response := some ⟨.illarg, 0⟩ } := ⟨rfl, rfl⟩

theorem test_witness_RepeatedRequestAgrees :
    exec (.get 2) State.reset = .next { State.reset with response := some ⟨.none, 0⟩ } ∧
    exec (.get 2) { State.reset with response := some ⟨.none, 0⟩ } =
      .next { State.reset with response := some ⟨.none, 0⟩ } := ⟨rfl, rfl⟩

theorem test_witness_CommandTable : 5 ≤ (5 : BitVec 3).toNat ∧ 5 ≤ (7 : BitVec 3).toNat := by decide

theorem test_witness_CommandSendsOneWrite :
    ((4 : BitVec 3), (0x78 : Byte), (0x66 : Byte)) ∈
      [((0 : BitVec 3), (0xB0 : Byte), (0x98 : Byte)), (1, 0x35, 0x17), (2, 0xEF, 0xC8), (3, 0x80, 0x5D), (4, 0x78, 0x66)] := by
  decide

theorem test_witness_CrcDetectsOneByte : (0x01 : Byte) ≠ crc8 0 0 ∧ (0x01 : Byte) ≠ 0 := by decide +kernel

theorem test_witness_ReadWordsFunction :
    (∀ g ∈ [(⟨0x66, 0x66, 0x93⟩ : Group), ⟨0x80, 0x00, 0xA2⟩], crc8 g.hi g.lo = g.crc) ∧ crc8 0x9C 0x40 ≠ 0x44 := by decide +kernel

theorem test_witness_CorruptedByteRejectsFrame :
    (∀ g ∈ [(⟨0x66, 0x66, 0x93⟩ : Group)], crc8 g.hi g.lo = g.crc) ∧ (0x92 : Byte) ≠ [(0x66 : Byte), 0x66, 0x93][2] := by decide +kernel

theorem test_witness_ReadStoresFrame_one :
    readAnswer 3 (answering [] [frameP2] State.reset).bus = .ok [0x66, 0x66, 0x93] ∧ crc8 0x66 0x66 = 0x93 := by decide +kernel

theorem test_witness_ReadStoresFrame_two :
    readAnswer 6 (answering [] [frameP2] State.reset).bus = .ok [0x66, 0x66, 0x93, 0x80, 0x00, 0xA2] ∧
    crc8 0x66 0x66 = 0x93 ∧ crc8 0x80 0x00 = 0xA2 := by decide +kernel

theorem test_witness_ReadBusFailure :
    readAnswer (3 * (1 : BitVec 3).toNat) (answering [] [.notOk] good).bus = .notOk ∧
    readAnswer (3 * (2 : BitVec 3).toNat) (answering [] [.notOk] good).bus = .notOk := by decide

theorem test_witness_ReadCrcMismatch_one :
    readAnswer (3 * (1 : BitVec 3).toNat) (answering [] [.ok #v[0, 0, 0, 0, 0, 0]] good).bus =
      .ok (([] ++ (⟨0, 0, 0⟩ : Group) :: []).flatMap fun x : Group => [x.hi, x.lo, x.crc]) ∧ crc8 0 0 ≠ 0 := by decide +kernel

theorem test_witness_ReadCrcMismatch_second :
    readAnswer (3 * (2 : BitVec 3).toNat) (answering [] [frameP3] good).bus =
      .ok (([(⟨0x64, 0x8B, 0xC7⟩ : Group)] ++ (⟨0x9C, 0x40, 0x44⟩ : Group) :: []).flatMap fun x : Group => [x.hi, x.lo, x.crc]) ∧
    (∀ x ∈ [(⟨0x64, 0x8B, 0xC7⟩ : Group)], crc8 x.hi x.lo = x.crc) ∧ crc8 0x9C 0x40 ≠ 0x44 := by decide +kernel

theorem test_witness_RegisterReadAnswers :
    good.block.w0 = some 0x6666 ∧ good.block.w1 = some 0x8000 ∧ good.block.crcc = some 0xA2 ∧ good.block.crcr = some 0xA2 := by
  decide

theorem test_witness_NoValueAnswers :
    State.reset.block.w0 = none ∧ State.reset.block.w1 = none ∧ State.reset.block.crcc = none ∧
    State.reset.block.crcr = none := by decide

theorem test_witness_IdentityDecode :
    (0x0887 : Word) &&& 0x003F = 0x0007 ∧ (0x0887 : Word) &&& 0x0800 ≠ 0 ∧ (0xF7C7 : Word) &&& 0x003F = 0x0007 ∧
    (0xF7C7 : Word) &&& 0x0800 = 0 ∧ (0x0027 : Word) &&& 0x003F ≠ 0x0007 := by decide

theorem test_witness_IdentityAnswers : (st (some 0x0087) none 1 (some 0) (some 0)).block.w0 = some 0x0087 := by decide

theorem test_witness_ConversionsAreExact : good.block.w0 = some 0x6666 ∧ good.block.w1 = some 0x8000 := by decide

theorem test_witness_ConversionProperties : (0xFFFE : Word).toNat + 1 = (0xFFFF : Word).toNat := by decide

theorem test_witness_BlockInvariant :
    good.block.Ok ∧ serve 0x50000000 good = .next { good with response := some ⟨.none, 0x6666⟩ } := ⟨by decide, rfl⟩

theorem test_witness_StepKeepsInvariant :
    let s := scene (hostAt .idle true (some 20)) [.elapse 20]
    s.Ok ∧ step s = .next { s with index := 1, host := hostAt .readFrame true none } := ⟨by decide, rfl⟩

theorem test_witness_ResetEvent :
    let s := { good with script := [.reset] }
    s.script[s.index]? = some .reset := by decide

theorem test_witness_ResetDuringRequest :
    let s := { good with script := [.abort 0x10000000 true, .abort 0x10000000 false] }
    s.script[s.index]? = some (.abort 0x10000000 true) ∧ s.script[s.index + 1]? = some (.abort 0x10000000 false) := by decide

theorem test_witness_SetupIdentifiesDevice :
    let s := answering [true, true, true] [.ok #v[0x08, 0x87, 0x5B, 0, 0, 0]]
      (scene { State.reset.host with phase := .setupWake } [.proceed, .proceed, .proceed, .proceed, .proceed, .proceed])
    s.host.phase = .setupWake ∧ (∀ k < 6, s.script[s.index + k]? = some .proceed) ∧
    s.bus.writeAnswers = true :: true :: true :: [] ∧
    s.bus.readAnswers = .ok #v[0x08, 0x87, 0x5B, 0, 0, 0] :: [] ∧ crc8 0x08 0x87 = 0x5B := by decide +kernel

theorem test_witness_FailedSetupIsFinal :
    let s := scene { State.reset.host with failed := true } [.tick]
    s.Ok ∧ s.host.failed = true ∧ step s = .next { s with index := 1 } ∧
    (∀ w, s.script[s.index]? ≠ some (.request w)) ∧ (∀ w c, s.script[s.index]? ≠ some (.abort w c)) :=
  ⟨by decide, rfl, rfl, by simp [scene, State.reset], by simp [scene, State.reset]⟩

theorem test_witness_IdentityWrittenOnce :
    let s := scene (hostAt .idle false none) [.tick]
    s.Ok ∧ s.host.variant = some .shtc3 ∧ step s = .next { s with index := 1, host := hostAt .tickWake false none } :=
  ⟨by decide, rfl, rfl⟩

theorem test_witness_WarningChanges_set :
    let s := answering [] [.notOk] (scene (hostAt .readFrame false none) [.proceed])
    s.host.warn = false ∧ (match step s with | .next t => t.host.warn | _ => false) = true := by decide

theorem test_witness_WarningChanges_set_by_poll :
    let s := answering [false] [] (scene (hostAt .tickPoll false none) [.proceed])
    s.host.warn = false ∧ s.script[s.index]? = some .proceed ∧
    (match step s with | .next t => t.host.warn && t.response == some ⟨.busw, 0⟩ | _ => false) = true := by decide

theorem test_witness_WarningChanges_path :
    let s := answering [] [frameP2] (scene (hostAt .readFrame true none) [.proceed, .proceed])
    (match step s with | .next t => t.host.phase | _ => .idle) = .convertTemp ∧
    (match Host.Core.run core 2 s with | .next t => t.host.phase | _ => .idle) = .convertHum 0x41C7FDD0 := by decide +kernel

theorem test_witness_WarningChanges_cleared :
    let s := scene (hostAt (.convertHum 0) true none) [.proceed]
    s.host.warn = true ∧ (match step s with | .next t => t.host.warn | _ => true) = false := by decide

theorem test_witness_CompletionWaits_poll :
    let s := answering [true] [] (scene (hostAt .tickPoll false none) [.proceed])
    s.script[s.index]? = some .proceed ∧ s.host.phase = .tickPoll ∧ writeAnswer s.bus = true := by decide

theorem test_witness_CompletionWaits_start :
    let s := scene (hostAt .idle false (some 50)) [.elapse 50]
    s.host.phase ≠ .readFrame ∧ (match step s with | .next t => t.host.phase | _ => .idle) = .readFrame := by decide

theorem test_witness_CompletionWaits_due :
    let s := scene (hostAt .idle false (some 50)) [.elapse 50]
    s.script[s.index]? = some (.elapse 50) ∧ s.host.timer = some 50 ∧ s.host.phase = .idle := by decide

theorem test_witness_CompletionWaits_waiting :
    let s := scene (hostAt .idle false (some 50)) [.elapse 49]
    s.host.timer = some 50 ∧ s.host.phase ≠ .tickPoll ∧
    (match step s with | .next t => t.host.timer | _ => none) = some 1 ∧
    (match step s with | .next t => t.host.phase | _ => .readFrame) ≠ .readFrame := by decide

theorem test_witness_FailedPollPublishesMarkers :
    let s := answering [false] [] (scene (hostAt .tickPoll false none) [.proceed])
    s.script[s.index]? = some .proceed ∧ s.host.phase = .tickPoll ∧ writeAnswer s.bus = false ∧ s.Ok := by decide

theorem test_witness_FailedReadPublishesMarkers :
    let s := answering [] [frameP3] (scene (hostAt .readFrame false none) [.proceed])
    s.script[s.index]? = some .proceed ∧ s.host.phase = .readFrame ∧
    readWords (readAnswer 6 s.bus) = .crcMismatch 1 0x45 0x44 ∧
    readWords (readAnswer 6 (answering [] [.notOk] s).bus) = .busReadFailed := by decide +kernel

theorem test_witness_GoodReadPublishesValues :
    let s := answering [] [frameP2] (scene (hostAt .readFrame true none) [.proceed, .proceed, .proceed])
    s.host.phase = .readFrame ∧ (∀ k < 3, s.script[s.index + k]? = some .proceed) ∧
    readAnswer 6 s.bus = .ok [0x66, 0x66, crc8 0x66 0x66, 0x80, 0x00, crc8 0x80 0x00] := by decide +kernel

theorem test_witness_TickStartsWithRecovery :
    let s := scene (hostAt .idle true none) [.tick]
    s.script[s.index]? = some .tick ∧ s.host.failed = false ∧ s.host.variant = some .shtc3 ∧ s.host.phase = .idle ∧
    s.host.timer = none := by decide

theorem test_witness_SetupFailures_command :
    let s := fun p => answering [false] [] (scene { State.reset.host with phase := p } [.proceed])
    ∀ p ∈ [Phase.setupWake, .setupReset, .setupReadId],
      (s p).Ok ∧ (s p).script[(s p).index]? = some .proceed ∧ (s p).host.phase = p ∧ writeAnswer (s p).bus = false := by
  decide

theorem test_witness_SetupFailures_read :
    let s := fun a => answering [] [a] (scene { State.reset.host with phase := .setupRead } [.proceed])
    ∀ a ∈ [ReadAnswer.notOk, .ok #v[0x08, 0x87, 0x5A, 0, 0, 0]],
      (s a).Ok ∧ (s a).script[(s a).index]? = some .proceed ∧
      (readWords (readAnswer 3 (s a).bus) = .busReadFailed ∨
        readWords (readAnswer 3 (s a).bus) = .crcMismatch 0 0x5B 0x5A) := by decide +kernel

theorem test_witness_IgnoredCommandResults :
    let s := fun p => answering [false] [] (scene (hostAt p true none) [.proceed])
    ∀ p ∈ [Phase.tickReset, .tickWake, .sleep], (s p).script[(s p).index]? = some .proceed ∧ (s p).host.phase = p := by
  decide

end Sys2Proof.Tests
end

section
/-! The frame reader on whole frames, and the block's invariant: a frame's groups and words, which requests can write the
block's registers, and what they leave there (10_state R14, R22, R23; 42_frame_reader R100 to R104). -/

namespace Sys2Proof.Machine

/-! ### Frames -/

/-- An OK answer to a read of at most six bytes holds as many bytes as were asked for (20_memory R31, R35). -/
theorem length_of_readAnswer_eq_ok {len : Nat} {b : Bus} {bytes : List Byte} (hlen : len ≤ 6)
    (h : readAnswer len b = .ok bytes) : bytes.length = len := by
  unfold readAnswer at h
  split at h
  · cases h
  · cases h
    simp [hlen]
  · split at h
    · cases h
      simp
    · cases h

theorem length_groupsOf (bytes : List Byte) : (groupsOf bytes).length = bytes.length / 3 := by
  fun_induction groupsOf bytes with
  | case1 hi lo c rest ih => simp only [List.length_cons, ih]; omega
  | case2 bytes hshort =>
    match bytes with
    | [] | [_] | [_, _] => simp
    | hi :: lo :: c :: rest => exact absurd rfl (hshort hi lo c rest)

/-- A frame's check delivers words exactly when every group matches, and then it delivers each group's word, in order
(42_frame_reader R100 to R102). -/
theorem checkGroups_eq_words_iff (k : Nat) (gs : List Group) (ws : List Word) :
    checkGroups k gs = .words ws ↔
      (∀ g ∈ gs, crc8 g.hi g.lo = g.crc) ∧ ws = gs.map fun g => wordOf g.hi g.lo := by
  induction gs generalizing k ws with
  | nil => simp [checkGroups, eq_comm]
  | cons x xs ih =>
    by_cases hx : crc8 x.hi x.lo = x.crc
    · cases hr : checkGroups (k + 1) xs with
      | words vs =>
        obtain ⟨hall, rfl⟩ := (ih (k + 1) vs).1 hr
        simpa [checkGroups, checkGroup, hx, hr, @eq_comm _ ws] using fun _ => hall
      | busReadFailed | crcMismatch =>
        have hbad : ¬ ∀ g ∈ xs, crc8 g.hi g.lo = g.crc := fun hall => by
          simpa [hr] using (ih (k + 1) _).2 ⟨hall, rfl⟩
        simpa [checkGroups, checkGroup, hx, hr] using fun hall => absurd hall hbad
    · simp [checkGroups, checkGroup, hx]

/-- `RDW` accepts the counts 1 and 2 (42_frame_reader R106). -/
theorem countLegal_iff (n : BitVec 3) : countLegal n = true ↔ 1 ≤ n.toNat ∧ n.toNat ≤ 2 := by
  rw [countLegal, Bool.and_eq_true, decide_eq_true_eq, decide_eq_true_eq, Config.maxW]

/-- A read of `n` words that succeeds has a frame of `n` groups, every one of which matches, and delivers their words. -/
theorem groups_of_readWords_eq_words {n : Nat} {b : Bus} {ws : List Word} (hn : n ≤ 2)
    (h : readWords (readAnswer (3 * n) b) = .words ws) :
    let gs := groupsOf (readAnswer (3 * n) b).frame
    gs.length = n ∧ (∀ g ∈ gs, crc8 g.hi g.lo = g.crc) ∧ ws = gs.map fun g => wordOf g.hi g.lo := by
  cases hr : readAnswer (3 * n) b with
  | notOk => simp [hr, readWords] at h
  | ok bytes =>
    have hlen := length_of_readAnswer_eq_ok (by omega) hr
    rw [hr] at h
    exact ⟨by simp [BusReply.frame, length_groupsOf, hlen], (checkGroups_eq_words_iff 0 _ ws).1 h⟩

/-! ### Which requests write the registers -/

/-- Only `RDW` with a legal count writes the block's registers; every other request leaves them all as they were (R22). -/
theorem serve_block_cases {w : Req} {s t : State} (h : serve w s = .next t) :
    t.block = s.block ∨ ∃ n, countLegal n = true ∧ decode w = .ok (.rdw n) ∧ t = runRdw n s := by
  cases hd : decode w with
  | error e =>
    rw [serve_error w e s hd] at h
    cases h
    exact .inl rfl
  | ok i =>
    rw [serve_ok w i s hd] at h
    cases i with
    | cmd sel =>
      cases h
      cases hc : cmdCode sel with
      | none => exact .inl (by rw [runCmd_illegal sel s hc, raise_block])
      | some c => exact .inl (by rw [runCmd_legal sel c s hc])
    | crc | chk =>
      cases h
      exact .inl rfl
    | rdw n =>
      cases h
      cases hn : countLegal n with
      | false => exact .inl (by rw [runRdw_illegal n s hn, raise_block])
      | true => exact .inr ⟨n, hn, rfl, rfl⟩
    | get r =>
      cases h
      rcases runGet_cases r s with ⟨_, e⟩ | ⟨_, _, e⟩ | ⟨_, _, _, e⟩ <;> exact .inl (by rw [e]; rfl)
    | idd | cvt | cvh =>
      cases h
      exact .inl (by rw [decodeWith_eq])

/-! ### The block's invariant -/

theorem afterReset_ok : Block.afterReset.Ok := by decide

/-- A failed read that checked no group keeps the invariant, which does not tie the checksums to a block without words
(R104). -/
theorem dropWords_ok {b : Block} (hb : b.Ok) : b.dropWords.Ok := by
  obtain ⟨_, _, _, hcrc, _⟩ := hb
  simpa [Block.Ok] using hcrc

/-- A read that ended at a bad group leaves the invariant, whatever the two checksums are and whatever was there before
(R104). -/
theorem dropWords_setCrc_ok (b : Block) (computed received : Byte) : (b.dropWords.setCrc computed received).Ok := by
  simp [Block.Ok]

/-- Up to two words and two equal checksums meet the invariant, whatever was there before. -/
theorem loadWords_setCrc_ok (b : Block) {ws : List Word} {c : Byte} (hws : ws.length ≤ 2) :
    ((b.loadWords ws).setCrc c c).Ok := by
  have hnw : (BitVec.ofNat 2 ws.length).toNat = ws.length := by
    rw [BitVec.toNat_ofNat, Nat.mod_eq_of_lt (by omega)]
  simp [Block.Ok, hnw, hws]

/-- A frame of one or two groups, all matching, leaves the invariant: the stored checksums are those of its last group, which
matches (R103). -/
theorem storeFrame_ok (b : Block) {bytes : List Byte} {ws : List Word} (hne : groupsOf bytes ≠ [])
    (hmatch : ∀ g ∈ groupsOf bytes, crc8 g.hi g.lo = g.crc) (hws : ws.length ≤ 2) : (storeFrame bytes ws b).Ok := by
  have hlast := List.getLast?_eq_some_getLast hne
  have hcrc := hmatch _ (List.getLast_mem hne)
  simpa [storeFrame, hlast, hcrc] using loadWords_setCrc_ok b hws

/-- `RDW` with a legal count keeps the block's invariant, however its read ends. -/
theorem runRdw_keeps_ok {n : BitVec 3} {s : State} (hn : countLegal n = true) (hs : s.block.Ok) :
    (runRdw n s).block.Ok := by
  obtain ⟨hpos, hle⟩ := (countLegal_iff n).1 hn
  rw [runRdw_legal n s hn]
  rcases finishRead_cases (readAnswer (3 * n.toNat) s.bus) { s with bus := s.bus.afterRead (3 * n.toNat) } with
    ⟨_, e⟩ | ⟨_, x, y, _, e⟩ | ⟨ws, hr, e⟩
  · rw [e]; exact dropWords_ok hs
  · rw [e]; exact dropWords_setCrc_ok s.block x y
  · obtain ⟨hlen, hmatch, hws⟩ := groups_of_readWords_eq_words hle hr
    rw [e]
    exact storeFrame_ok s.block (List.ne_nil_of_length_pos (by omega)) hmatch (by rw [hws, List.length_map]; omega)

/-- Serving any request word keeps the block's invariant (R23). -/
theorem serve_keeps_block_ok {w : Req} {s t : State} (hs : s.block.Ok) (h : serve w s = .next t) : t.block.Ok := by
  rcases serve_block_cases h with hframe | ⟨n, hn, _, rfl⟩
  · exact hframe ▸ hs
  · exact runRdw_keeps_ok hn hs

/-- Settles O35: reset leaves no word and no checksum, and of all requests only `RDW` writes the registers. -/
theorem blockInvariant : Obligations.BlockInvariant :=
  ⟨afterReset_ok, fun _ _ _ => serve_keeps_block_ok⟩

end Sys2Proof.Machine
end

section
/-! The command encoder's two functions: where the constant table is defined, and that a code is the concatenation of its two
bytes (40_command_encoder R80, R81, R83). -/

namespace Sys2Proof.Machine

/-- The selectors without a code are exactly those past the table's five entries (R80, R83). -/
theorem cmdCode_eq_none_iff (s : BitVec 3) : cmdCode s = none ↔ 5 ≤ s.toNat :=
  List.getElem?_eq_none_iff

/-- Settles O14: the five constants are the table's entries, and a selector from 5 on is past its end. -/
theorem commandTable : Obligations.CommandTable :=
  ⟨rfl, rfl, rfl, rfl, rfl, fun s => (cmdCode_eq_none_iff s).2⟩

/-- The register byte and the payload byte are adjacent and cover the code, so together they are the code (R81). -/
theorem split_append (c : Word) : (split c).1 ++ (split c).2 = c :=
  calc (split c).1 ++ (split c).2
      = c.extractLsb' 0 16 := BitVec.extractLsb'_append_extractLsb'_eq_extractLsb' rfl
    _ = c := BitVec.extractLsb'_eq_self

/-- Settles O15: for every code the two bytes are its halves; the five pairs are computed. -/
theorem splitLosesNothing : Obligations.SplitLosesNothing :=
  ⟨fun c => ⟨split_append c, rfl⟩, rfl, rfl, rfl, rfl, rfl⟩

end Sys2Proof.Machine
end

section
/-! The CRC-8 validator: one step bit by bit, the eight steps as a linear bijection and as the printed table, the checksum of
two bytes by it, and what a group's check detects (41_crc8_validator R90 to R92, R94, R96). -/

namespace Sys2Proof.Machine

/-! ### One step -/

/-- Bit `i` of a step is the bit below it, exclusive-or bit 7 at the taps, which are the set bits of `0x31` (R92). -/
theorem getElem_crcStep (x : Byte) {i : Nat} (hi : i < 8) :
    (crcStep x)[i] = ((decide (0 < i) && x.getLsbD (i - 1)) ^^ ((0x31 : Byte)[i] && x[7])) := by
  have hshift : (x <<< 1)[i] = (decide (0 < i) && x.getLsbD (i - 1)) := by
    cases i <;> simp [BitVec.getLsbD_eq_getElem, Nat.lt_of_succ_lt, hi]
  cases h7 : x[7] <;> simp [crcStep, h7, hshift]

theorem crcStep_xor (x y : Byte) : crcStep (x ^^^ y) = crcStep x ^^^ crcStep y := by
  refine BitVec.eq_of_getElem_eq fun i hi => ?_
  simp only [getElem_crcStep, BitVec.getElem_xor, BitVec.getLsbD_xor, Bool.and_xor_distrib_left, Bool.xor_assoc,
    Bool.xor_left_comm]

/-- A step can be undone: bit 7 is bit 0 of the result, and with it every other bit is found one place higher (R92). -/
theorem crcStep_injective : Function.Injective crcStep := by
  intro x y h
  have hbit : ∀ i (hi : i < 8), (crcStep x)[i] = (crcStep y)[i] := fun i hi => by rw [h]
  have h7 : x[7] = y[7] := by simpa [getElem_crcStep] using hbit 0 (by decide)
  refine BitVec.eq_of_getElem_eq fun i hi => ?_
  obtain rfl | hlt : i = 7 ∨ i + 1 < 8 := by omega
  · exact h7
  · simpa [getElem_crcStep, h7, hi] using hbit (i + 1) hlt

theorem crcStep_bijective : Function.Bijective crcStep := Finite.injective_iff_bijective.1 crcStep_injective

/-! ### Several steps -/

theorem crcSteps_xor (k : Nat) (x y : Byte) : crcSteps k (x ^^^ y) = crcSteps k x ^^^ crcSteps k y := by
  induction k generalizing x y with
  | zero => rfl
  | succ k ih => rw [crcSteps, crcStep_xor, ih, crcSteps, crcSteps]

theorem crcSteps_bijective (k : Nat) : Function.Bijective (crcSteps k) := by
  induction k with
  | zero => exact Function.bijective_id
  | succ k ih => exact ih.comp crcStep_bijective

theorem crcT_xor (x y : Byte) : crcT (x ^^^ y) = crcT x ^^^ crcT y := crcSteps_xor 8 x y

theorem crcT_bijective : Function.Bijective crcT := crcSteps_bijective 8

/-- Each entry of the printed table is the eight steps from its index (R91). -/
theorem crcTable_eq_map : crcTable = (List.range 256).map fun n => crcT (BitVec.ofNat 8 n) := by decide +kernel

/-! ### The checksum of two bytes -/

/-- The checksum by the table's map (R91). -/
theorem crc8_eq (a b : Byte) : crc8 a b = crcT (crcT (0xFF ^^^ a) ^^^ b) := rfl

theorem crcT_crcT_initial : crcT (crcT 0xFF) = 0x81 := by decide +kernel

/-- By linearity the initial value contributes the constant `0x81` (R92). -/
theorem crc8_eq_xor (a b : Byte) : crc8 a b = crcT (crcT a) ^^^ crcT b ^^^ 0x81 :=
  calc crc8 a b
      = crcT (crcT 0xFF) ^^^ crcT (crcT a) ^^^ crcT b := by simp only [crc8_eq, crcT_xor]
    _ = crcT (crcT a) ^^^ crcT b ^^^ 0x81 := by rw [crcT_crcT_initial, BitVec.xor_assoc, BitVec.xor_comm]

theorem crc8_bijective_right (a : Byte) : Function.Bijective (crc8 a) :=
  Finite.injective_iff_bijective.1 fun _ _ h => (BitVec.xor_right_inj _).1 (crcT_bijective.injective h)

theorem crc8_bijective_left (b : Byte) : Function.Bijective fun a => crc8 a b :=
  Finite.injective_iff_bijective.1 fun _ _ h =>
    (BitVec.xor_right_inj _).1 (crcT_bijective.injective ((BitVec.xor_left_inj b).1 (crcT_bijective.injective h)))

/-- The pairs with one checksum correspond to their first bytes: each first byte has exactly one second byte. -/
theorem fst_bijective_of_crc8_eq (c : Byte) :
    Function.Bijective fun p : { p : Byte × Byte // crc8 p.1 p.2 = c } => p.1.1 := by
  constructor
  · rintro ⟨⟨a, b⟩, hb⟩ ⟨⟨_, b'⟩, hb'⟩ rfl
    obtain rfl : b = b' := (crc8_bijective_right a).injective (hb.trans hb'.symm)
    rfl
  · intro a
    obtain ⟨b, hb⟩ := (crc8_bijective_right a).surjective c
    exact ⟨⟨(a, b), hb⟩, rfl⟩

theorem card_crc8_eq (c : Byte) : Nat.card { p : Byte × Byte // crc8 p.1 p.2 = c } = 256 :=
  calc Nat.card { p : Byte × Byte // crc8 p.1 p.2 = c }
      = Nat.card Byte := Nat.card_eq_of_bijective _ (fst_bijective_of_crc8_eq c)
    _ = Nat.card (Fin (2 ^ 8)) := Nat.card_congr BitVec.equivFin.toEquiv
    _ = 256 := Nat.card_fin _

/-! ### A group's check -/

/-- A group matches exactly when it carries the checksum of its two bytes (R94). -/
theorem checkGroup_match_iff (g : Group) : (checkGroup g).1 = true ↔ crc8 g.hi g.lo = g.crc := beq_iff_eq

/-- A group built with the checksum of its two bytes matches. -/
theorem checkGroup_crc8 (hi lo : Byte) : (checkGroup ⟨hi, lo, crc8 hi lo⟩).1 = true := (checkGroup_match_iff _).2 rfl

theorem wordOf_eq_shift_or (hi lo : Byte) : wordOf hi lo = (hi.setWidth 16 <<< 8) ||| lo.setWidth 16 := by
  rw [wordOf, ← BitVec.setWidth_append_eq_shiftLeft_setWidth_or, BitVec.setWidth_eq]

/-! ### The statements -/

/-- Settles O17: the bits are those of `getElem_crcStep` at each position, and eight steps inherit linearity and bijectivity
from one. -/
theorem crcBitForm : Obligations.CrcBitForm :=
  ⟨fun c => by simp [getElem_crcStep], crcStep_xor, crcStep_bijective, crcT_xor, by decide +kernel, crcT_bijective, crc8_eq_xor,
    crcT_crcT_initial, by decide +kernel⟩

/-- Settles O18: the table is the list of `crcT` of 0 to 255, so its entry at a byte is `crcT` of that byte. -/
theorem crcTableForm : Obligations.CrcTableForm :=
  ⟨by simp [crcTable_eq_map], fun x => by simp [crcTable_eq_map, x.isLt], crc8_eq⟩

/-- Settles O19: bijectivity in each byte gives the count of pairs and the detection of one changed byte; the undetected
changes are from the word `0x0000` to `0x0001` and to `0x0101`, each with its own checksum. -/
theorem crcDetectsOneByte : Obligations.CrcDetectsOneByte := by
  refine ⟨crc8_bijective_right, crc8_bijective_left, card_crc8_eq, fun hi lo x => ⟨Ne.symm, ?_, ?_⟩, ?_, ?_⟩
  · exact (crc8_bijective_left lo).injective.ne
  · exact (crc8_bijective_right hi).injective.ne
  · exact ⟨0, 0, 1, by decide, checkGroup_crc8 0 0, checkGroup_crc8 0 1, by decide +kernel⟩
  · exact ⟨0, 1, 0, 1, by decide, by decide, by decide +kernel, checkGroup_crc8 0 0, checkGroup_crc8 1 1⟩

/-- Settles O20: the equality test is the decision of the equality, and the two bytes side by side are the shift-or. -/
theorem groupCheck : Obligations.GroupCheck := fun hi lo c => by
  have hmatch : (crc8 hi lo == c) = decide (crc8 hi lo = c) := rfl
  rw [checkGroup, wordOf_eq_shift_or, hmatch]

end Sys2Proof.Machine
end

section
/-! The frame reader on frames of any number of groups: the groups of a frame given by its bytes, and where the check of its
groups ends (42_frame_reader R100 to R102). -/

namespace Sys2Proof.Machine

/-- Laying groups out back to back loses nothing: the bytes cut in threes are the groups again (30_encoding R60). -/
theorem groupsOf_flatMap (gs : List Group) : groupsOf (gs.flatMap fun g => [g.hi, g.lo, g.crc]) = gs := by
  induction gs with
  | nil => rfl
  | cons g gs ih => simp [groupsOf, ih]

/-- The check ends at the first group that does not match and reports that group's index and both its checksums; the words
before it are dropped and the groups after it are not looked at (42_frame_reader R100, R102). -/
theorem checkGroups_eq_crcMismatch (k : Nat) {before : List Group} {g : Group} (after : List Group)
    (hbefore : ∀ x ∈ before, crc8 x.hi x.lo = x.crc) (hg : crc8 g.hi g.lo ≠ g.crc) :
    checkGroups k (before ++ g :: after) = .crcMismatch (k + before.length) (crc8 g.hi g.lo) g.crc := by
  induction before generalizing k with
  | nil => simp [checkGroups, checkGroup, hg]
  | cons x xs ih =>
    obtain ⟨hx, hxs⟩ := List.forall_mem_cons.1 hbefore
    simp [checkGroups, checkGroup, hx, ih (k + 1) hxs, Nat.add_assoc, Nat.add_comm 1]

/-- Settles O23: the frame's bytes are its groups, and their check from index 0 delivers all the words or ends at the first
group that does not match. -/
theorem readWordsFunction : Obligations.ReadWordsFunction := by
  refine ⟨rfl, fun gs hall => ?_, fun before g after hbefore hg => ?_⟩
  · rw [readWords, groupsOf_flatMap]
    exact (checkGroups_eq_words_iff 0 gs _).2 ⟨hall, rfl⟩
  · rw [readWords, groupsOf_flatMap, checkGroups_eq_crcMismatch 0 after hbefore hg, Nat.zero_add]

end Sys2Proof.Machine
end

section
/-! The identity decode: the seven bits of a word it looks at, the same bits in mask form, and the number of words of each
variant, which is 512 for each value of those bits that decodes to it (43_decoders R115). -/

namespace Sys2Proof.Machine

/-! ### The identity bits in mask form -/

theorem and_003F_eq_0007_iff (w : Word) : w &&& 0x003F = 0x0007 ↔ w.extractLsb' 0 6 = 0x07#6 := by
  have hmask : w.toNat &&& 63 = w.toNat % 64 := Nat.and_two_pow_sub_one_eq_mod _ 6
  simp [← BitVec.toNat_inj, hmask]

theorem and_0800_eq_zero_iff (w : Word) : w &&& 0x0800 = 0 ↔ w.getLsbD 11 = false := by
  have hmask : w &&& 0x0800 = if w.getLsbD 11 then 0x0800 else 0 := BitVec.and_twoPow w 11
  rw [hmask]
  cases w.getLsbD 11 <;> decide

/-! ### The words of one variant -/

/-- The variant by the bits the decode looks at: bit 11 and the low six bits (R115). -/
def variantOfBits : Bool × BitVec 6 → Variant
  | (bit11, low) => if low = 0x07#6 then (if bit11 then .shtc3 else .shtc1) else .unknown

/-- A word cut into the bits the identity decode looks at and the nine it ignores. -/
def identitySplit (w : Word) : (Bool × BitVec 6) × (BitVec 4 × BitVec 5) :=
  ((w.getLsbD 11, w.extractLsb' 0 6), (w.extractLsb' 12 4, w.extractLsb' 6 5))

theorem decodeId_eq_variantOfBits (w : Word) : decodeId w = variantOfBits (identitySplit w).1 := rfl

/-- Two words that agree on a field agree on each of its bits. -/
theorem getLsbD_eq_of_extractLsb'_eq {n i start len : Nat} {x y : BitVec n}
    (h : x.extractLsb' start len = y.extractLsb' start len) (hle : start ≤ i) (hlt : i < start + len) :
    x.getLsbD i = y.getLsbD i := by
  have hbit := congrArg (·.getLsbD (i - start)) h
  simpa [BitVec.getLsbD_extractLsb', Nat.sub_lt_left_of_lt_add hle hlt, Nat.add_sub_cancel' hle] using hbit

/-- Each of the sixteen bits is in one of the four parts, so the parts fix the word. -/
theorem identitySplit_injective : Function.Injective identitySplit := by
  intro x y h
  simp only [identitySplit, Prod.mk.injEq] at h
  obtain ⟨⟨hbit11, hlow⟩, hhigh, hmid⟩ := h
  refine BitVec.eq_of_getLsbD_eq fun i hi => ?_
  obtain hi | hi | rfl | hi : i < 6 ∨ (6 ≤ i ∧ i < 11) ∨ i = 11 ∨ 12 ≤ i := by omega
  · exact getLsbD_eq_of_extractLsb'_eq hlow (by omega) (by omega)
  · exact getLsbD_eq_of_extractLsb'_eq hmid hi.1 hi.2
  · exact hbit11
  · exact getLsbD_eq_of_extractLsb'_eq hhigh hi (by omega)

theorem card_bitVec (n : Nat) : Fintype.card (BitVec n) = 2 ^ n :=
  FinEnum.card_eq_fintypeCard.symm

theorem identitySplit_bijective : Function.Bijective identitySplit :=
  (Fintype.bijective_iff_injective_and_card _).2 ⟨identitySplit_injective, by simp [card_bitVec]⟩

/-- The words of a variant: the identity bits that decode to it, each with any value of the nine ignored bits. -/
theorem card_decodeId_eq (v : Variant) :
    Nat.card { w : Word // decodeId w = v } = Nat.card { b : Bool × BitVec 6 // variantOfBits b = v } * 512 :=
  calc Nat.card { w : Word // decodeId w = v }
      = Nat.card { p : (Bool × BitVec 6) × (BitVec 4 × BitVec 5) // variantOfBits p.1 = v } :=
        Nat.card_congr ((Equiv.ofBijective _ identitySplit_bijective).subtypeEquiv fun w => by
          rw [decodeId_eq_variantOfBits, Equiv.ofBijective_apply])
    _ = Nat.card ({ b : Bool × BitVec 6 // variantOfBits b = v } × (BitVec 4 × BitVec 5)) :=
        Nat.card_congr (Equiv.prodSubtypeFstEquivSubtypeProd (p := fun b => variantOfBits b = v))
    _ = Nat.card { b : Bool × BitVec 6 // variantOfBits b = v } * 512 := by simp [card_bitVec]

/-- One value of the identity bits decodes to each of the two devices, and the other 126 to none. -/
theorem card_variantOfBits_eq :
    Nat.card { b : Bool × BitVec 6 // variantOfBits b = .shtc3 } = 1 ∧
    Nat.card { b : Bool × BitVec 6 // variantOfBits b = .shtc1 } = 1 ∧
    Nat.card { b : Bool × BitVec 6 // variantOfBits b = .unknown } = 126 := by
  simp only [Nat.card_eq_fintype_card]
  decide +kernel

/-- Settles O30: the masks are the bits the decode tests, and 512 words share each value of those bits. -/
theorem identityDecode : Obligations.IdentityDecode := by
  obtain ⟨hshtc3, hshtc1, hunknown⟩ := card_variantOfBits_eq
  refine ⟨fun w => ?_, ?_, ?_, ?_⟩
  · rw [ne_eq, ne_eq, and_003F_eq_0007_iff, and_0800_eq_zero_iff, Bool.not_eq_false, decodeId]
    refine ⟨fun hlow h11 => ?_, fun hlow h11 => ?_, fun hlow => ?_⟩
    · rw [if_pos hlow, if_pos h11]
    · rw [if_pos hlow, h11, if_neg Bool.false_ne_true]
    · rw [if_neg hlow]
  · rw [card_decodeId_eq, hshtc3]
  · rw [card_decodeId_eq, hshtc1]
  · rw [card_decodeId_eq, hunknown]

end Sys2Proof.Machine
end

section
/-! Exceptions of the decode order and of registers without a value: which request words no row of the opcode map selects,
what raises the illegal-operand error after a row is selected, and the answer where a register holds no value
(30_encoding R51 to R53; 60_exceptions R161 to R163). -/

namespace Sys2Proof.Machine

/-! ### The rows of the opcode map (R51) -/

section

variable {w : Req}

theorem tableRow_cmd (hop : (opField w).toNat = 1) : tableRow w = some (.s, .cmd (selField w)) := by
  simp only [tableRow, hop]

theorem tableRow_crc (hop : (opField w).toNat = 2) : tableRow w = some (.b2, .crc (byte1 w) (byte0 w)) := by
  simp only [tableRow, hop]

theorem tableRow_chk (hop : (opField w).toNat = 3) : tableRow w = some (.b3, .chk (byte2 w) (byte1 w) (byte0 w)) := by
  simp only [tableRow, hop]

theorem tableRow_rdw (hop : (opField w).toNat = 4) : tableRow w = some (.s, .rdw (selField w)) := by
  simp only [tableRow, hop]

theorem tableRow_get (hop : (opField w).toNat = 5) : tableRow w = some (.s, .get (selField w)) := by
  simp only [tableRow, hop]

theorem tableRow_idd (hop : (opField w).toNat = 6) : tableRow w = some (.n, .idd) := by
  simp only [tableRow, hop]

theorem tableRow_cvt (hop : (opField w).toNat = 7) : tableRow w = some (.n, .cvt) := by
  simp only [tableRow, hop]

theorem tableRow_cvh (hop : (opField w).toNat = 8) : tableRow w = some (.n, .cvh) := by
  simp only [tableRow, hop]

/-- The rows of format S (R51). -/
theorem exists_tableRow_s (hop : (opField w).toNat = 1 ∨ (opField w).toNat = 4 ∨ (opField w).toNat = 5) :
    ∃ i, tableRow w = some (.s, i) := by
  rcases hop with h | h | h
  · exact ⟨_, tableRow_cmd h⟩
  · exact ⟨_, tableRow_rdw h⟩
  · exact ⟨_, tableRow_get h⟩

/-- The rows of format N (R51). -/
theorem exists_tableRow_n (hlow : 6 ≤ (opField w).toNat) (hhigh : (opField w).toNat ≤ 8) :
    ∃ i, tableRow w = some (.n, i) := by
  obtain h | h | h : (opField w).toNat = 6 ∨ (opField w).toNat = 7 ∨ (opField w).toNat = 8 := by omega
  · exact ⟨_, tableRow_idd h⟩
  · exact ⟨_, tableRow_cvt h⟩
  · exact ⟨_, tableRow_cvh h⟩

/-- Exactly the operation codes 0 and 9 to 15 select no row (R51). -/
theorem tableRow_eq_none_iff : tableRow w = none ↔ opField w = 0 ∨ 9 ≤ (opField w).toNat := by
  rw [show opField w = 0 ↔ (opField w).toNat = 0 from BitVec.toNat_inj.symm, tableRow]
  split
  case h_9 => grind
  all_goals simp [*]

theorem exists_tableRow_of_op_legal (hop : 1 ≤ (opField w).toNat ∧ (opField w).toNat ≤ 8) :
    ∃ f i, tableRow w = some (f, i) := by
  have hne : tableRow w ≠ none := fun hnone => by
    rcases tableRow_eq_none_iff.1 hnone with h | h
    · simp [h] at hop
    · exact absurd (h.trans hop.2) (by decide)
  obtain ⟨⟨f, i⟩, hrow⟩ := Option.ne_none_iff_exists'.1 hne
  exact ⟨f, i, hrow⟩

end

/-! ### The decode order -/

/-- Step 1 of R53. -/
theorem decode_eq_illop {w : Req} (hrow : tableRow w = none) : decode w = .error .illop := by
  rw [decode, hrow]

/-- Steps 2 and 3 of R53. -/
theorem decode_eq_illarg {w : Req} {f : Format} {i : Instr} (hrow : tableRow w = some (f, i))
    (hbits : rsvField w ≠ 0 ∨ reservedClear w f = false) : decode w = .error .illarg := by
  rcases hbits with hrsv | hclear
  · simp only [decode, hrow, if_pos hrsv]
  · simp only [decode, hrow, if_pos hclear, ite_self]

/-- A word that passes steps 1 to 3 of R53 decodes to its row's instruction. -/
theorem decode_eq_ok {w : Req} {f : Format} {i : Instr} (hrow : tableRow w = some (f, i)) (hrsv : rsvField w = 0)
    (hclear : reservedClear w f = true) : decode w = .ok i := by
  simp [decode, hrow, hrsv, hclear]

/-! ### Operands out of range -/

/-- Step 4 of R53: only `CMD`, `RDW` and `GET` have operands out of range, and each raises the error before it does
anything. -/
theorem exec_of_not_wf {i : Instr} (hwf : i.wf = false) (s : State) : exec i s = .next (raise .illarg 0 s) := by
  cases i with
  | cmd sel =>
    have hsel : 5 ≤ sel.toNat := Nat.lt_of_not_le (of_decide_eq_false hwf)
    exact congrArg Host.Outcome.next (runCmd_illegal sel s ((cmdCode_eq_none_iff sel).2 hsel))
  | rdw n => exact congrArg Host.Outcome.next (runRdw_illegal n s hwf)
  | get r =>
    have hr : regLegal r ≠ true := Bool.eq_false_iff.1 hwf
    rcases runGet_cases r s with ⟨_, e⟩ | ⟨hlegal, _⟩ | ⟨hlegal, _⟩
    · exact congrArg Host.Outcome.next e
    · exact absurd hlegal hr
    · exact absurd hlegal hr
  | crc | chk | idd | cvt | cvh => cases hwf

/-- The illegal-operand error for a word with a legal operation code, whichever of steps 2 to 4 of R53 finds it. -/
theorem serve_illarg {w : Req} {f : Format} {i : Instr} (hrow : tableRow w = some (f, i))
    (hcause : rsvField w ≠ 0 ∨ reservedClear w f = false ∨ i.wf = false) (s : State) :
    serve w s = .next { s with response := some ⟨.illarg, 0⟩ } := by
  by_cases hbits : rsvField w ≠ 0 ∨ reservedClear w f = false
  · exact serve_error w .illarg s (decode_eq_illarg hrow hbits)
  · obtain ⟨hrsv, hclear⟩ := not_or.1 hbits
    have hwf : i.wf = false := (hcause.resolve_left hrsv).resolve_left hclear
    rw [serve_ok w i s (decode_eq_ok hrow (not_not.1 hrsv) (Bool.eq_true_of_not_eq_false hclear))]
    exact exec_of_not_wf hwf s

/-- Settles O5: no row is selected, so the first step of the decode order answers. -/
theorem illegalOperation : Obligations.IllegalOperation :=
  ⟨rfl, fun w s hop => serve_error w .illop s (decode_eq_illop (tableRow_eq_none_iff.2 hop))⟩

/-- Settles O6: each cause is one of steps 2 to 4 of the decode order at the row its operation code selects; a `CHK` word with
`rsv` zero passes them all and answers. -/
theorem illegalOperand : Obligations.IllegalOperand := by
  refine ⟨rfl, fun w s hop hcause => ?_, fun w s hop hrsv => ?_⟩
  · rcases hcause with hrsv | ⟨hs, hbits⟩ | ⟨hcrc, hbits⟩ | ⟨hn, hbits⟩ | ⟨hcmd, hsel⟩ | ⟨hrdw, hsel⟩ | ⟨hget, hsel⟩
    · obtain ⟨f, i, hrow⟩ := exists_tableRow_of_op_legal hop
      exact serve_illarg hrow (.inl hrsv) s
    · obtain ⟨i, hrow⟩ := exists_tableRow_s hs
      exact serve_illarg hrow (.inr (.inl (beq_eq_false_iff_ne.2 hbits))) s
    · exact serve_illarg (tableRow_crc hcrc) (.inr (.inl (beq_eq_false_iff_ne.2 hbits))) s
    · obtain ⟨i, hrow⟩ := exists_tableRow_n hn hop.2
      exact serve_illarg hrow (.inr (.inl (beq_eq_false_iff_ne.2 hbits))) s
    · exact serve_illarg (tableRow_cmd hcmd) (.inr (.inr (decide_eq_false (Nat.not_le.2 hsel)))) s
    · have hcount : countLegal (selField w) = false := by
        rw [← Bool.not_eq_true, countLegal_iff, selField]
        omega
      exact serve_illarg (tableRow_rdw hrdw) (.inr (.inr hcount)) s
    · exact serve_illarg (tableRow_get hget) (.inr (.inr (decide_eq_false (Nat.not_le.2 hsel)))) s
  · exact ⟨_, serve_ok w _ s (decode_eq_ok (tableRow_chk (congrArg BitVec.toNat hop)) hrsv rfl)⟩

/-! ### Registers without a value -/

/-- `GET` of a legal register that holds no value raises `E_NOWORD` (R105, R163). -/
theorem runGet_noword {r : BitVec 3} {s : State} (hr : regLegal r = true) (hnone : regContent r s.block = none) :
    runGet r s = raise .noword 0 s := by
  rcases runGet_cases r s with ⟨hillegal, _⟩ | ⟨_, _, e⟩ | ⟨_, d, hsome, _⟩
  · exact absurd hr (Bool.eq_false_iff.1 hillegal)
  · exact e
  · cases hnone.symm.trans hsome

/-- Settles O29: the four registers that can hold no value are legal operands of `GET` and read as none; the decoders answer
with the marker their arm names. -/
theorem noValueAnswers : Obligations.NoValueAnswers := by
  refine ⟨rfl, fun s r hnone => ?_, fun s h0 => ⟨?_, ?_⟩, fun s h1 => ?_⟩
  · obtain ⟨hr, hcontent⟩ : regLegal r = true ∧ regContent r s.block = none := by
      rcases hnone with ⟨rfl, h⟩ | ⟨rfl, h⟩ | ⟨rfl, h⟩ | ⟨rfl, h⟩ <;> exact ⟨rfl, Option.map_eq_none_iff.2 h⟩
    exact congrArg Host.Outcome.next (runGet_noword hr hcontent)
  · rw [exec, execIdd, decodeWith_eq, h0, Option.elim_none]
  · rw [exec, execCvt, decodeWith_eq, h0, Option.elim_none]
  · rw [exec, execCvh, decodeWith_eq, h1, Option.elim_none]

end Sys2Proof.Machine
end

section
/-! The request words of instructions: the decoder undoes the encoder and the encoder the decoder, the legal words counted by
the instructions they encode, and the assembler's lines (30_encoding R50 to R54, R66, R67). -/

namespace Sys2Proof.Machine

/-! ### The operand field (R52) -/

theorem selField_requestWord (op : BitVec 4) (s : BitVec 3) : selField (requestWord op (0#21 ++ s)) = s := by
  rw [selField, extract_requestWord op _ 0 3 (by decide), BitVec.extractLsb'_append_eq_right]

theorem byte0_requestWord (op : BitVec 4) (x : BitVec 16) (c : Byte) : byte0 (requestWord op (x ++ c)) = c := by
  rw [byte0, extract_requestWord op _ 0 8 (by decide), BitVec.extractLsb'_append_eq_right]

theorem byte1_requestWord (op : BitVec 4) (a b c : Byte) : byte1 (requestWord op (a ++ b ++ c)) = b := by
  rw [byte1, extract_requestWord op _ 8 8 (by decide), BitVec.extractLsb'_append_eq_of_le (by decide),
    BitVec.extractLsb'_append_eq_right]

theorem byte2_requestWord (op : BitVec 4) (a b c : Byte) : byte2 (requestWord op (a ++ b ++ c)) = a := by
  rw [byte2, extract_requestWord op _ 16 8 (by decide), BitVec.extractLsb'_append_eq_of_le (by decide),
    BitVec.extractLsb'_append_eq_left]

theorem reservedClear_requestWord_n (op : BitVec 4) : reservedClear (requestWord op 0) .n = true := by
  rw [reservedClear, extract_requestWord op 0 0 24 (by decide)]
  rfl

theorem reservedClear_requestWord_s (op : BitVec 4) (s : BitVec 3) :
    reservedClear (requestWord op (0#21 ++ s)) .s = true := by
  rw [reservedClear, extract_requestWord op _ 3 21 (by decide), BitVec.extractLsb'_append_eq_left]
  rfl

theorem reservedClear_requestWord_b2 (op : BitVec 4) (a b : Byte) :
    reservedClear (requestWord op (0#8 ++ a ++ b)) .b2 = true :=
  beq_iff_eq.2 (byte2_requestWord op 0 a b)

/-- The decoder undoes the encoder: `op` selects the instruction's row, nothing outside its operands is set, and each operand
stands in its own field. -/
theorem decode_encode (i : Instr) : decode (encode i) = .ok i := by
  have decoded {op : BitVec 4} {arg : BitVec 24} {f : Format} {j : Instr}
      (hrow : tableRow (requestWord op arg) = some (f, j)) (hclear : reservedClear (requestWord op arg) f = true) :
      decode (requestWord op arg) = .ok j :=
    decode_eq_ok hrow (rsvField_requestWord op arg) hclear
  cases i with
  | cmd s =>
    rw [encode, decoded (tableRow_cmd (by simp)) (reservedClear_requestWord_s 1 s), selField_requestWord]
  | crc a b =>
    rw [encode, decoded (tableRow_crc (by simp)) (reservedClear_requestWord_b2 2 a b), byte1_requestWord, byte0_requestWord]
  | chk hi lo c =>
    rw [encode, decoded (tableRow_chk (by simp)) rfl, byte2_requestWord, byte1_requestWord, byte0_requestWord]
  | rdw n =>
    rw [encode, decoded (tableRow_rdw (by simp)) (reservedClear_requestWord_s 4 n), selField_requestWord]
  | get r =>
    rw [encode, decoded (tableRow_get (by simp)) (reservedClear_requestWord_s 5 r), selField_requestWord]
  | idd => exact decoded (tableRow_idd (by simp)) (reservedClear_requestWord_n 6)
  | cvt => exact decoded (tableRow_cvt (by simp)) (reservedClear_requestWord_n 7)
  | cvh => exact decoded (tableRow_cvh (by simp)) (reservedClear_requestWord_n 8)

/-- Settles O1: at each row of the opcode map the fields of the request word are the instruction's operands. -/
theorem decodeOfEncode : Obligations.DecodeOfEncode := decode_encode

/-! ### The word of a decoded instruction -/

/-- What the decoder has tested of a word it accepts: steps 1 to 3 of R53. -/
theorem tableRow_of_decode_eq_ok {w : Req} {i : Instr} (h : decode w = .ok i) :
    rsvField w = 0 ∧ ∃ f, tableRow w = some (f, i) ∧ reservedClear w f = true := by
  cases hrow : tableRow w with
  | none => cases (decode_eq_illop hrow).symm.trans h
  | some row =>
    obtain ⟨f, j⟩ := row
    by_cases hbits : rsvField w ≠ 0 ∨ reservedClear w f = false
    · cases (decode_eq_illarg hrow hbits).symm.trans h
    · obtain ⟨hrsv, hclear⟩ := not_or.1 hbits
      have hrsv := not_not.1 hrsv
      have hclear := Bool.eq_true_of_not_eq_false hclear
      cases (decode_eq_ok hrow hrsv hclear).symm.trans h
      exact ⟨hrsv, f, rfl, hclear⟩

/-- Two adjacent fields of a word side by side are one field. -/
theorem extract_append_extract (w : Req) (start m n : Nat) :
    w.extractLsb' (start + n) m ++ w.extractLsb' start n = w.extractLsb' start (m + n) :=
  BitVec.extractLsb'_append_extractLsb'_eq_extractLsb' rfl

/-- A word with `rsv` zero is its `op` and its operand field (R50). -/
theorem requestWord_fields {w : Req} (hrsv : rsvField w = 0) : requestWord (opField w) (w.extractLsb' 0 24) = w :=
  calc requestWord (opField w) (w.extractLsb' 0 24)
      = opField w ++ rsvField w ++ w.extractLsb' 0 24 := by rw [hrsv]; rfl
    _ = w.extractLsb' 0 32 := by
      rw [opField, rsvField, extract_append_extract w 24 4 4, extract_append_extract w 0 8 24]
    _ = w := BitVec.extractLsb'_eq_self

/-- The operand field of a word whose row has format S (R52). -/
theorem argField_s {w : Req} (hclear : reservedClear w .s = true) : 0#21 ++ selField w = w.extractLsb' 0 24 := by
  rw [← extract_append_extract w 0 21 3, beq_iff_eq.1 hclear]
  rfl

/-- The operand field of a word whose row has format B3 (R52). -/
theorem argField_b3 (w : Req) : byte2 w ++ byte1 w ++ byte0 w = w.extractLsb' 0 24 := by
  rw [byte2, byte1, byte0, extract_append_extract w 8 8 8, extract_append_extract w 0 16 8]

/-- The operand field of a word whose row has format B2 (R52). -/
theorem argField_b2 {w : Req} (hclear : reservedClear w .b2 = true) :
    0#8 ++ byte1 w ++ byte0 w = w.extractLsb' 0 24 := by
  rw [← argField_b3 w, byte2, beq_iff_eq.1 hclear]
  rfl

/-- The operand field of a word whose row has format N (R52). -/
theorem argField_n {w : Req} (hclear : reservedClear w .n = true) : 0 = w.extractLsb' 0 24 :=
  (beq_iff_eq.1 hclear).symm

/-- An instruction read from a row of the opcode map has the row's `op` and the word's operand field. -/
theorem encode_eq_of_tableRow {w : Req} {f : Format} {i : Instr} (hrow : tableRow w = some (f, i))
    (hclear : reservedClear w f = true) : encode i = requestWord (opField w) (w.extractLsb' 0 24) := by
  have hop {op : BitVec 4} (h : (opField w).toNat = op.toNat) : op = opField w := (BitVec.eq_of_toNat_eq h).symm
  unfold tableRow at hrow
  split at hrow
  case h_9 => cases hrow
  all_goals cases hrow
  case h_1 h | h_4 h | h_5 h => exact congrArg₂ requestWord (hop h) (argField_s hclear)
  case h_2 h => exact congrArg₂ requestWord (hop h) (argField_b2 hclear)
  case h_3 h => exact congrArg₂ requestWord (hop h) (argField_b3 w)
  case h_6 h | h_7 h | h_8 h => exact congrArg₂ requestWord (hop h) (argField_n hclear)

theorem encode_of_decode {w : Req} {i : Instr} (h : decode w = .ok i) : encode i = w := by
  obtain ⟨hrsv, f, hrow, hclear⟩ := tableRow_of_decode_eq_ok h
  rw [encode_eq_of_tableRow hrow hclear, requestWord_fields hrsv]

/-- Settles O2: `op`, `rsv` and the operand field cover the word, and the row's tests fix every bit that no operand holds. -/
theorem encodeOfDecode : Obligations.EncodeOfDecode := fun _ _ => encode_of_decode

/-- Settles O3: the words computed. -/
theorem specWordsDecode : Obligations.SpecWordsDecode := ⟨rfl, rfl, rfl, rfl, rfl, rfl, rfl, rfl, rfl, rfl, rfl⟩

/-- Settles O40: the words computed. -/
theorem hostRequestWords : Obligations.HostRequestWords :=
  ⟨rfl, rfl, rfl, rfl, rfl, fun _ => rfl, rfl, rfl, rfl, rfl, rfl, fun _ => rfl, rfl, rfl⟩

/-! ### The legal words, counted -/

/-- The legal operands of each operation, in the order of the opcode map (R52). -/
abbrev LegalOperands : Type :=
  { s : BitVec 3 // s.toNat ≤ 4 } ⊕ (Byte × Byte) ⊕ (Byte × Byte × Byte) ⊕ { n : BitVec 3 // countLegal n = true } ⊕
    { r : BitVec 3 // r.toNat ≤ 4 } ⊕ Fin 3

/-- The well-formed instruction with the given operands. -/
def legalInstr : LegalOperands → { i : Instr // i.wf = true }
  | .inl ⟨s, h⟩ => ⟨.cmd s, decide_eq_true h⟩
  | .inr (.inl (a, b)) => ⟨.crc a b, rfl⟩
  | .inr (.inr (.inl (hi, lo, c))) => ⟨.chk hi lo c, rfl⟩
  | .inr (.inr (.inr (.inl ⟨n, h⟩))) => ⟨.rdw n, h⟩
  | .inr (.inr (.inr (.inr (.inl ⟨r, h⟩)))) => ⟨.get r, decide_eq_true h⟩
  | .inr (.inr (.inr (.inr (.inr 0)))) => ⟨.idd, rfl⟩
  | .inr (.inr (.inr (.inr (.inr 1)))) => ⟨.cvt, rfl⟩
  | .inr (.inr (.inr (.inr (.inr 2)))) => ⟨.cvh, rfl⟩

/-- The operands of a well-formed instruction. -/
def operandsOf : { i : Instr // i.wf = true } → LegalOperands
  | ⟨.cmd s, h⟩ => .inl ⟨s, of_decide_eq_true h⟩
  | ⟨.crc a b, _⟩ => .inr (.inl (a, b))
  | ⟨.chk hi lo c, _⟩ => .inr (.inr (.inl (hi, lo, c)))
  | ⟨.rdw n, h⟩ => .inr (.inr (.inr (.inl ⟨n, h⟩)))
  | ⟨.get r, h⟩ => .inr (.inr (.inr (.inr (.inl ⟨r, of_decide_eq_true h⟩))))
  | ⟨.idd, _⟩ => .inr (.inr (.inr (.inr (.inr 0))))
  | ⟨.cvt, _⟩ => .inr (.inr (.inr (.inr (.inr 1))))
  | ⟨.cvh, _⟩ => .inr (.inr (.inr (.inr (.inr 2))))

theorem operandsOf_legalInstr : Function.LeftInverse operandsOf legalInstr
  | .inl _ | .inr (.inl _) | .inr (.inr (.inl _)) | .inr (.inr (.inr (.inl _)))
  | .inr (.inr (.inr (.inr (.inl _)))) | .inr (.inr (.inr (.inr (.inr 0))))
  | .inr (.inr (.inr (.inr (.inr 1)))) | .inr (.inr (.inr (.inr (.inr 2)))) => rfl

theorem legalInstr_operandsOf : Function.RightInverse operandsOf legalInstr
  | ⟨.cmd _, _⟩ | ⟨.crc _ _, _⟩ | ⟨.chk _ _ _, _⟩ | ⟨.rdw _, _⟩ | ⟨.get _, _⟩ | ⟨.idd, _⟩ | ⟨.cvt, _⟩ | ⟨.cvh, _⟩ => rfl

/-- A well-formed instruction is an operation with its legal operands. -/
def legalInstrEquiv : LegalOperands ≃ { i : Instr // i.wf = true } :=
  ⟨legalInstr, operandsOf, operandsOf_legalInstr, legalInstr_operandsOf⟩

/-- Five commands, `2^16` byte pairs, `2^24` groups, two counts, five registers and three operations without operands. -/
theorem card_legalOperands : Nat.card LegalOperands = 16842767 := by
  have hsel : Fintype.card { s : BitVec 3 // s.toNat ≤ 4 } = 5 := by decide
  have hcount : Fintype.card { n : BitVec 3 // countLegal n = true } = 2 := by decide
  have hbyte : Fintype.card Byte = 256 := card_bitVec 8
  simp [hsel, hcount, hbyte]

/-- The request word of a well-formed instruction. -/
def legalWord (i : { i : Instr // i.wf = true }) : { w : Req // ∃ i, decode w = .ok i ∧ i.wf = true } :=
  ⟨encode i, i, decode_encode i, i.2⟩

theorem legalWord_bijective : Function.Bijective legalWord := by
  refine ⟨fun i j h => Subtype.ext ?_, fun ⟨w, i, hi, hwf⟩ => ⟨⟨i, hwf⟩, Subtype.ext (encode_of_decode hi)⟩⟩
  have hword : encode i = encode j := congrArg Subtype.val h
  exact Except.ok.inj ((decode_encode i).symm.trans (hword ▸ decode_encode j))

/-- The legal words are the encodings of the well-formed instructions, which are counted by operation (R54). -/
theorem card_legalWords : Nat.card { w : Req // ∃ i, decode w = .ok i ∧ i.wf = true } = 16842767 :=
  calc Nat.card { w : Req // ∃ i, decode w = .ok i ∧ i.wf = true }
      = Nat.card { i : Instr // i.wf = true } := (Nat.card_eq_of_bijective _ legalWord_bijective).symm
    _ = Nat.card LegalOperands := (Nat.card_congr legalInstrEquiv).symm
    _ = 16842767 := card_legalOperands

/-- A word that is not legal is answered with one of the two decode errors and nothing else (R53). -/
theorem serve_of_not_legal {w : Req} (hw : ¬∃ i, decode w = .ok i ∧ i.wf = true) (s : State) :
    serve w s = .next (raise .illop 0 s) ∨ serve w s = .next (raise .illarg 0 s) := by
  cases hd : decode w with
  | error e => cases e with
    | illop => exact .inl (serve_error w .illop s hd)
    | illarg => exact .inr (serve_error w .illarg s hd)
  | ok i =>
    have hwf : i.wf = false := Bool.eq_false_iff.2 fun hwf => hw ⟨i, hd, hwf⟩
    exact .inr ((serve_ok w i s hd).trans (exec_of_not_wf hwf s))

/-- Settles O4: the count is that of the instructions the legal words encode; every other word fails a test of the decode
order, and the all-zero and the all-ones word fail the first. -/
theorem legalWordCount : Obligations.LegalWordCount :=
  ⟨card_legalWords,
    fun _ s => or_iff_not_imp_left.2 fun hw => serve_of_not_legal hw s,
    fun s => ⟨serve_error _ .illop s rfl, serve_error _ .illop s rfl⟩⟩

/-! ### The assembler (R66, R67) -/

/-- The assembler accepts an operation only with legal operands, and the pseudo-instructions are the five commands. -/
theorem wf_of_assembleLine {line : List Char} {i : Instr} (h : assembleLine line = some i) : i.wf = true := by
  unfold assembleLine at h
  dsimp only at h
  split at h
  · exact (Option.filter_eq_some_iff.1 h).2
  · split at h
    · next s args hs _ =>
      cases h
      have hlt := (List.findIdx?_eq_some_iff_getElem.1 hs).1
      have hlen : asmCommands.length = 5 := rfl
      refine decide_eq_true ?_
      rw [BitVec.toNat_ofNat]
      omega
    · cases h

theorem exists_of_assemble {line : List Char} {w : Req} (h : assemble line = some w) :
    ∃ i, decode w = .ok i ∧ i.wf = true ∧ assembleLine line = some i := by
  obtain ⟨i, hi, rfl⟩ := Option.map_eq_some_iff.1 h
  exact ⟨i, decode_encode i, wf_of_assembleLine hi, hi⟩

/-- Settles O7: what the assembler accepts is well formed, and its word decodes to it; the lines of R66 and R67 computed. -/
theorem assembledRequestsAreLegal : Obligations.AssembledRequestsAreLegal := by
  refine ⟨fun _ _ => exists_of_assemble, ?_⟩
  decide

end Sys2Proof.Machine
end

section
/-! One step of the machine: the event it takes, what each event can do to the block, the transport and the marker, and the
machine's invariant, in which the host is either not yet identified or identified (10_state R18, R23; 44_host_sequences R130
to R148; 70_reset R185). -/

namespace Sys2Proof.Machine

/-! ### The event of a step -/

/-- A step takes the event at the index, with the index past it (R18). -/
theorem step_of_event {s : State} {e : Event} (he : s.script[s.index]? = some e) :
    step s = runEvent e { s with index := s.index + 1 } := by
  obtain ⟨e', he', hs⟩ | ⟨hnone, _⟩ := step_cases s
  · cases he.symm.trans he'
    exact hs
  · cases he.symm.trans hnone

/-- Settles O8: the request event is served, and serving executes what decodes and raises what does not. -/
theorem stepRunsDecoded : Obligations.StepRunsDecoded := by
  refine ⟨fun s w i he hd => (step_of_event he).trans (serve_ok w i _ hd), fun s w e he hd => ?_⟩
  refine (step_of_event he).trans ((serve_error w e _ hd).trans ?_)
  cases e <;> rfl

/-- Settles O9: the proceed event serves the request of the current step and hands the response over. -/
theorem hostStepRunsDecoded : Obligations.HostStepRunsDecoded := step_proceed

/-- Settles O10: with no event at the index only the stop is left. -/
theorem runEndsWithScript : Obligations.RunEndsWithScript := fun s hnone => by
  obtain ⟨e, he, _⟩ | ⟨_, hs⟩ := step_cases s
  · cases hnone.symm.trans he
  · exact hs

/-- Settles O38: the reset event writes the block's registers alone. -/
theorem resetEvent : Obligations.ResetEvent := fun _ => step_of_event

theorem abortRequest_eq {w : Req} {s u : State} (called : Bool) (hu : serve w s = .next u) :
    abortRequest w called s = .next (resetBlock { s with bus := if called then u.bus else s.bus }) := by
  rw [abortRequest, hu]

/-- Settles O39: the abandoned request is always answered by `serve`, and of that answer the transport alone can stay. -/
theorem resetDuringRequest : Obligations.ResetDuringRequest := fun s w called he => by
  obtain ⟨u, _, hu, _⟩ := serve_next w { s with index := s.index + 1 }
  exact ⟨u, hu, (step_of_event he).trans (abortRequest_eq called hu)⟩

/-! ### What a step leaves of the block, the transport and the marker -/

theorem takeResponse_eq {s : State} {r : Response} (hr : s.response = some r) :
    takeResponse s = { s with host := absorb s.nanBits r s.host } := by
  rw [takeResponse, hr]

theorem hostSetup_next {s t : State} (h : hostSetup s = .next t) : ∃ host, t = { s with host := host } := by
  unfold hostSetup at h
  split at h
  · cases h
  · split at h
    · cases h
    · cases h; exact ⟨_, rfl⟩

theorem hostTick_next {s t : State} (h : hostTick s = .next t) : ∃ host, t = { s with host := host } := by
  unfold hostTick at h
  split at h
  · cases h; exact ⟨_, rfl⟩
  · split at h
    · cases h
    · split at h
      · cases h
      · cases h; exact ⟨_, rfl⟩

theorem hostElapse_frame (ms : Nat) (s : State) : ∃ host, hostElapse ms s = { s with host := host } := by
  unfold hostElapse
  split
  · exact ⟨_, rfl⟩
  · split <;> exact ⟨_, rfl⟩

/-- All a step can do outside the host: it serves one request, of the script or of the host's task; or it resets the block,
abandoning a request or not; or it leaves the block and the transport. The marker is never written. -/
theorem step_block_cases {s t : State} (h : step s = .next t) : t.nanBits = s.nanBits ∧
    ((∃ w u, (s.script[s.index]? = some (.request w) ∨
          s.script[s.index]? = some .proceed ∧ hostRequest s.host.phase = some w) ∧
        serve w { s with index := s.index + 1 } = .next u ∧ t.block = u.block ∧ t.bus = u.bus) ∨
      (t.block = Block.afterReset ∧ (t.bus = s.bus ∨ ∃ w called, s.script[s.index]? = some (.abort w called))) ∨
      (t.block = s.block ∧ t.bus = s.bus)) := by
  obtain ⟨e, he, hs⟩ | ⟨_, hs⟩ := step_cases s
  case inr => cases hs.symm.trans h
  rw [hs] at h
  cases e with
  | request w =>
    obtain ⟨u, _, hu, _, _, hnan, _⟩ := serve_next w { s with index := s.index + 1 }
    cases hu.symm.trans h
    exact ⟨hnan, .inl ⟨w, _, .inl he, h, rfl, rfl⟩⟩
  | reset => cases h; exact ⟨rfl, .inr (.inl ⟨rfl, .inl rfl⟩)⟩
  | abort w called =>
    obtain ⟨u, _, hu, _⟩ := serve_next w { s with index := s.index + 1 }
    cases (abortRequest_eq called hu).symm.trans h
    exact ⟨rfl, .inr (.inl ⟨rfl, .inr ⟨w, called, he⟩⟩)⟩
  | setup => obtain ⟨_, rfl⟩ := hostSetup_next h; exact ⟨rfl, .inr (.inr ⟨rfl, rfl⟩)⟩
  | tick => obtain ⟨_, rfl⟩ := hostTick_next h; exact ⟨rfl, .inr (.inr ⟨rfl, rfl⟩)⟩
  | elapse ms =>
    obtain ⟨host, heq⟩ := hostElapse_frame ms { s with index := s.index + 1 }
    cases (congrArg Host.Outcome.next heq).symm.trans h
    exact ⟨rfl, .inr (.inr ⟨rfl, rfl⟩)⟩
  | proceed =>
    cases hw : hostRequest s.host.phase with
    | none =>
      simp only [runEvent, hostProceed, hw] at h
      cases h
      exact ⟨rfl, .inr (.inr ⟨rfl, rfl⟩)⟩
    | some w =>
      obtain ⟨u, r, hu, hr, _, hnan, _⟩ := serve_next w { s with index := s.index + 1 }
      cases ((hostProceed_eq { s with index := s.index + 1 } w hw u hu).trans (congrArg _ (takeResponse_eq hr))).symm.trans h
      exact ⟨hnan, .inl ⟨w, u, .inr ⟨he, rfl⟩, hu, rfl, rfl⟩⟩
  | dump => cases h; exact ⟨rfl, .inr (.inr ⟨rfl, rfl⟩)⟩

theorem step_nanBits {s t : State} (h : step s = .next t) : t.nanBits = s.nanBits := (step_block_cases h).1

/-- Every step keeps the block's invariant (R23). -/
theorem step_keeps_block_ok {s t : State} (hs : s.block.Ok) (h : step s = .next t) : t.block.Ok := by
  rcases (step_block_cases h).2 with ⟨w, u, _, hu, hblock, _⟩ | ⟨hblock, _⟩ | ⟨hblock, _⟩
  · exact hblock ▸ serve_keeps_block_ok (s := { s with index := s.index + 1 }) hs hu
  · exact hblock ▸ afterReset_ok
  · exact hblock ▸ hs

/-! ### The host's two modes -/

/-- The host before it knows its device: nothing is stored, no warning and no completion is pending, and its task is idle or
in setup; setup has not failed while it runs. -/
def HostState.Unidentified (h : HostState) : Prop :=
  h.variant = none ∧ h.identity = none ∧ h.warn = false ∧ h.timer = none ∧
    (h.phase = .idle ∨ h.phase.inSetup = true ∧ h.failed = false)

/-- The host that knows its device: variant and identity are stored, setup is over and has not failed, and a completion is
pending only while the task is idle, with at most 50 ms to wait. -/
def HostState.Identified (h : HostState) : Prop :=
  h.variant.isSome = true ∧ h.identity.isSome = true ∧ h.failed = false ∧ h.phase.inSetup = false ∧
    ∀ left, h.timer = some left → h.phase = .idle ∧ left ≤ 50

/-- The host's invariant says that it is in one of its two modes. -/
theorem HostState.ok_iff (h : HostState) : h.Ok ↔ h.Unidentified ∨ h.Identified := by
  constructor
  · rintro ⟨hid, hfailed, hsetup, htask, htimer, hwarn⟩
    cases hv : h.variant with
    | none =>
      refine .inl ⟨hv, by simpa [hv] using hid, by simpa [hv] using hwarn, by simpa [hv] using htimer,
        or_iff_not_imp_left.2 fun hp => ⟨?_, Bool.eq_false_iff.2 fun hf => hp (hfailed hf).2⟩⟩
      exact Bool.eq_true_of_not_eq_false fun hs => by simpa [hv] using htask hp hs
    | some v =>
      exact .inr ⟨by simp [hv], by simpa [hv] using hid, by simpa [hv] using hfailed, by simpa [hv] using hsetup,
        fun left hleft => by simpa [hv, hleft] using htimer⟩
  · rintro (⟨hv, hid, hwarn, htimer, hphase⟩ | ⟨hv, hid, hfailed, hsetup, htimer⟩)
    · refine ⟨by rw [hv, hid]; rfl, fun hf => ⟨hv, ?_⟩, fun _ => hv, fun hp hs => ?_, by simp [htimer], by simp [hwarn]⟩
      · exact hphase.resolve_right fun hrun => by simp [hf] at hrun
      · simp [hp, hs] at hphase
    · refine ⟨by rw [hv, hid], by simp [hfailed], by simp [hsetup], fun _ _ => hv, fun ht => ?_, fun _ => hv⟩
      obtain ⟨left, hleft⟩ := Option.isSome_iff_exists.1 ht
      obtain ⟨hidle, hle⟩ := htimer left hleft
      exact ⟨hidle, hv, by simpa [hleft] using hle⟩

/-! ### What the host does with a response, by mode -/

/-- In setup the host goes on to another step of setup, fails for good, or stores variant and identity and is done (R132 to
R135). -/
theorem absorb_setup_cases {h : HostState} (hp : h.phase.inSetup = true) (nan : Req) (r : Response) :
    (∃ p, p.inSetup = true ∧ absorb nan r h = h.goTo p) ∨
    (∃ l, absorb nan r h = (h.note l).failSetup) ∨
    (∃ v id, absorb nan r h = ({ h with variant := some v, identity := some id }.note (.identified v id)).goTo .idle) := by
  cases hphase : h.phase with
  | setupWake | setupReset =>
    simp only [absorb, hphase, absorbSetupCommand]
    split
    · exact .inr (.inl ⟨_, rfl⟩)
    · exact .inl ⟨_, rfl, rfl⟩
  | setupReadId | setupRead =>
    simp only [absorb, hphase]
    split
    · exact .inr (.inl ⟨_, rfl⟩)
    · exact .inl ⟨_, rfl, rfl⟩
  | setupDecode =>
    simp only [absorb, hphase]
    exact .inl ⟨_, rfl, rfl⟩
  | setupIdentity v =>
    simp only [absorb, hphase]
    exact .inr (.inr ⟨v, _, rfl⟩)
  | _ => simp [hphase, Phase.inSetup] at hp

theorem inSetup_afterWarmUp (h : HostState) : (afterWarmUp h).inSetup = false := by
  unfold afterWarmUp
  split <;> rfl

theorem inSetup_afterRead (h : HostState) : (afterRead h).inSetup = false := by
  unfold afterRead
  split <;> rfl

/-- Outside setup the host stays outside setup and keeps variant, identity and failure; only a successful poll, which ends the
tick, changes the wait, to 50 ms (R136 to R142). -/
theorem absorb_task_frame {h : HostState} (hp : h.phase.inSetup = false) (nan : Req) (r : Response) :
    (absorb nan r h).variant = h.variant ∧ (absorb nan r h).identity = h.identity ∧
      (absorb nan r h).failed = h.failed ∧ (absorb nan r h).phase.inSetup = false ∧
      ((absorb nan r h).timer = h.timer ∨
        h.phase = .tickPoll ∧ (absorb nan r h).timer = some 50 ∧ (absorb nan r h).phase = .idle) := by
  cases hphase : h.phase with
  | idle => simp [absorb, hphase, Phase.inSetup]
  | tickReset =>
    simp only [absorb, hphase]
    exact ⟨rfl, rfl, rfl, inSetup_afterWarmUp h, .inl rfl⟩
  | tickWake | convertTemp | sleep =>
    simp only [absorb, hphase]
    exact ⟨rfl, rfl, rfl, rfl, .inl rfl⟩
  | tickPoll =>
    simp only [absorb, hphase]
    split
    · exact ⟨rfl, rfl, rfl, rfl, .inl rfl⟩
    · exact ⟨rfl, rfl, rfl, rfl, .inr ⟨trivial, rfl, rfl⟩⟩
  | readFrame =>
    simp only [absorb, hphase]
    split
    · exact ⟨rfl, rfl, rfl, inSetup_afterRead h, .inl rfl⟩
    · exact ⟨rfl, rfl, rfl, rfl, .inl rfl⟩
  | convertHum temp =>
    simp only [absorb, hphase]
    exact ⟨rfl, rfl, rfl, inSetup_afterRead h, .inl rfl⟩
  | _ => simp [hphase, Phase.inSetup] at hp

/-! ### Every step keeps the invariant -/

section

variable {h : HostState}

theorem HostState.Ok.unidentified (hok : h.Ok) (hv : h.variant = none) : h.Unidentified :=
  (h.ok_iff.1 hok).resolve_right fun hi => by simp [HostState.Identified, hv] at hi

theorem HostState.Ok.identified (hok : h.Ok) (hv : h.variant.isSome = true) : h.Identified :=
  (h.ok_iff.1 hok).resolve_left fun hu => by simp [HostState.Unidentified, Option.ne_none_iff_isSome.2 hv] at hu

/-- While the task runs no completion is pending (R139). -/
theorem HostState.Ok.timer_eq_none (hok : h.Ok) (hp : h.phase ≠ .idle) : h.timer = none := by
  rcases h.ok_iff.1 hok with ⟨_, _, _, htimer, _⟩ | ⟨_, _, _, _, htimer⟩
  · exact htimer
  · exact Option.eq_none_iff_forall_ne_some.2 fun left hleft => hp (htimer left hleft).1

/-- While setup runs nothing is stored and setup has not failed (R132, R133). -/
theorem HostState.Ok.of_inSetup (hok : h.Ok) (hp : h.phase.inSetup = true) : h.Unidentified ∧ h.failed = false := by
  rcases h.ok_iff.1 hok with hu | ⟨_, _, _, hsetup, _⟩
  · obtain ⟨_, _, _, _, hidle | ⟨_, hfailed⟩⟩ := id hu
    · simp [hidle, Phase.inSetup] at hp
    · exact ⟨hu, hfailed⟩
  · simp [hp] at hsetup

/-- A task of an identified host goes on outside setup. -/
theorem HostState.Identified.goTo (hi : h.Identified) (htimer : h.timer = none) {p : Phase} (hp : p.inSetup = false) :
    (h.goTo p).Ok := by
  obtain ⟨hv, hid, hfailed, _, _⟩ := hi
  exact (h.goTo p).ok_iff.2 (.inr ⟨hv, hid, hfailed, hp, by simp [htimer]⟩)

/-- A task of a host that is not identified goes on inside setup. -/
theorem HostState.Unidentified.goTo (hu : h.Unidentified) (hfailed : h.failed = false) {p : Phase} (hp : p.inSetup = true) :
    (h.goTo p).Ok := by
  obtain ⟨hv, hid, hwarn, htimer, _⟩ := hu
  exact (h.goTo p).ok_iff.2 (.inl ⟨hv, hid, hwarn, htimer, .inr ⟨hp, hfailed⟩⟩)

/-- Taking the response to a request keeps the host's invariant: setup goes on, fails, or identifies the device; a tick or
completion stays outside setup. -/
theorem absorb_keeps_ok (hok : h.Ok) (hp : h.phase ≠ .idle) (nan : Req) (r : Response) : (absorb nan r h).Ok := by
  cases hs : h.phase.inSetup with
  | true =>
    obtain ⟨hu, hfailed⟩ := hok.of_inSetup hs
    obtain ⟨hv, hid, hwarn, htimer, _⟩ := id hu
    rcases absorb_setup_cases hs nan r with ⟨p, hp, e⟩ | ⟨l, e⟩ | ⟨v, id, e⟩ <;> rw [e]
    · exact hu.goTo hfailed hp
    · exact (HostState.ok_iff _).2 (.inl ⟨hv, hid, hwarn, htimer, .inl rfl⟩)
    · exact (HostState.ok_iff _).2 (.inr ⟨rfl, rfl, hfailed, rfl, by simp [htimer]⟩)
  | false =>
    obtain ⟨_, _, _, htask, _, _⟩ := id hok
    obtain ⟨hv, hid, hfailed, _, _⟩ := hok.identified (htask hp hs)
    obtain ⟨hv', hid', hfailed', hs', htimer'⟩ := absorb_task_frame hs nan r
    refine (HostState.ok_iff _).2 (.inr ⟨hv' ▸ hv, hid' ▸ hid, hfailed' ▸ hfailed, hs', fun left hleft => ?_⟩)
    rcases htimer' with hkept | ⟨_, hset, hidle⟩
    · simp [hkept, hok.timer_eq_none hp] at hleft
    · cases hset.symm.trans hleft
      exact ⟨hidle, le_rfl⟩

end

/-- Every step keeps the host's invariant. -/
theorem step_keeps_host_ok {s t : State} (hok : s.host.Ok) (h : step s = .next t) : t.host.Ok := by
  rcases step_host_cases s t h with ⟨_, hp, r, _, e⟩ | ⟨_, _, hfailed, hv, e⟩ | ⟨_, _, _, hv, htimer, e⟩ |
    ⟨ms, left, _, htimer, hcase⟩ | ⟨_, e⟩ | ⟨e, _⟩
  · exact e ▸ absorb_keeps_ok hok hp s.nanBits r
  · exact e ▸ (hok.unidentified hv).goTo hfailed rfl
  · refine e ▸ (hok.identified (Option.ne_none_iff_isSome.1 hv)).goTo htimer ?_
    split
    · rfl
    · exact inSetup_afterWarmUp s.host
  · obtain ⟨_, _, _, _, hpending, _⟩ := id hok
    obtain ⟨_, hsome, _⟩ := hpending (by rw [htimer]; rfl)
    obtain ⟨hv, hid, hfailed, hs, hwait⟩ := hok.identified hsome
    obtain ⟨hidle, hle⟩ := hwait left htimer
    rcases hcase with ⟨_, _, e⟩ | ⟨_, e⟩ <;> rw [e]
    · exact (HostState.ok_iff _).2 (.inr ⟨hv, hid, hfailed, rfl, nofun⟩)
    · exact (HostState.ok_iff _).2 (.inr ⟨hv, hid, hfailed, hs, by rintro _ ⟨⟩; exact ⟨hidle, by omega⟩⟩)
  · exact e ▸ hok
  · exact e ▸ hok

/-- Settles O36: the block after reset, the marker `0x7FC00000` and an idle host with nothing stored. -/
theorem resetMeetsInvariant : Obligations.ResetMeetsInvariant :=
  ⟨afterReset_ok, rfl, (HostState.ok_iff _).2 (.inl ⟨rfl, rfl, rfl, rfl, .inl rfl⟩)⟩

/-- Settles O37: block, marker and host keep their parts of the invariant each by its own account of a step. -/
theorem stepKeepsInvariant : Obligations.StepKeepsInvariant := fun _ _ ⟨hblock, hnan, hhost⟩ h =>
  ⟨step_keeps_block_ok hblock h, step_nanBits h ▸ hnan, step_keeps_host_ok hhost h⟩

end Sys2Proof.Machine
end

section
/-! Requests: the frame of each operation, the answers of the operations that make no transport call, and the ends of `CMD`
and `RDW` (10_state R22; 20_memory R35, R37; 40_command_encoder R82; 42_frame_reader R100 to R105). -/

namespace Sys2Proof.Machine

/-! ### Every request -/

theorem bits_le_six (e : ErrCode) : e.bits.toNat ≤ 6 := by cases e <;> decide

/-- Settles O11: every request is answered, and no code is above 6. -/
theorem everyRequestAnswered : Obligations.EveryRequestAnswered := by
  refine ⟨⟨rfl, rfl, rfl, rfl, rfl, rfl, rfl⟩, fun w s => ?_⟩
  obtain ⟨t, r, hs, hr, hhost, hnan, hscript, hindex⟩ := serve_next w s
  exact ⟨t, r, hs, hr, bits_le_six r.err, hhost, hscript, hindex, hnan⟩

/-- Executing an instruction is serving its request word. -/
theorem serve_encode (i : Instr) (s : State) : serve (encode i) s = exec i s := serve_ok _ i s (decode_encode i)

/-! ### The operations that make no transport call -/

/-- What `GET` answers: the content of a legal register, or one of two errors (R105). -/
def getAnswer (r : BitVec 3) (b : Block) : Response :=
  if regLegal r then (regContent r b).elim ⟨.noword, 0⟩ fun d => ⟨.none, d⟩ else ⟨.illarg, 0⟩

theorem runGet_eq (r : BitVec 3) (s : State) : runGet r s = { s with response := some (getAnswer r s.block) } := by
  unfold getAnswer
  rcases runGet_cases r s with ⟨hr, e⟩ | ⟨hr, hd, e⟩ | ⟨hr, d, hd, e⟩
  · rw [e, hr]; rfl
  · rw [e, hr, hd]; rfl
  · rw [e, hr, hd]; rfl

/-- Without a transport call an operation writes the response alone, and what it answers does not depend on the response
before it (R22, R37). -/
theorem exec_eq_response {i : Instr} (hcmd : ∀ c, i ≠ .cmd c) (hrdw : ∀ n, i ≠ .rdw n) (s : State) :
    ∃ r, ∀ q, exec i { s with response := q } = .next { s with response := some r } := by
  cases i with
  | cmd c => exact absurd rfl (hcmd c)
  | rdw n => exact absurd rfl (hrdw n)
  | crc | chk => exact ⟨_, fun _ => rfl⟩
  | get r => exact ⟨getAnswer r s.block, fun q => congrArg Host.Outcome.next (runGet_eq r { s with response := q })⟩
  | idd => exact ⟨_, fun q => congrArg Host.Outcome.next (decodeWith_eq s.block.w0 0 iddData { s with response := q })⟩
  | cvt => exact ⟨_, fun q => congrArg Host.Outcome.next (decodeWith_eq s.block.w0 s.nanBits cvtData { s with response := q })⟩
  | cvh => exact ⟨_, fun q => congrArg Host.Outcome.next (decodeWith_eq s.block.w1 s.nanBits cvhData { s with response := q })⟩

/-- Settles O13: the answer depends on nothing the first request wrote. -/
theorem repeatedRequestAgrees : Obligations.RepeatedRequestAgrees := fun i s t u hcmd hrdw hst htu => by
  obtain ⟨r, hr⟩ := exec_eq_response hcmd hrdw s
  cases (hr s.response).symm.trans hst
  cases (hr (some r)).symm.trans htu
  rfl

/-! ### Which operations reach the transport (R22) -/

theorem finishRead_bus (reply : BusReply) (s : State) : (finishRead reply s).bus = s.bus := by
  rcases finishRead_cases reply s with ⟨_, e⟩ | ⟨_, _, _, _, e⟩ | ⟨_, _, e⟩ <;> rw [e]

theorem countLegal_iff_eq (n : BitVec 3) : countLegal n = true ↔ n = 1 ∨ n = 2 := by
  rw [countLegal_iff, ← BitVec.toNat_inj, ← BitVec.toNat_inj]
  change _ ↔ n.toNat = 1 ∨ n.toNat = 2
  omega

theorem runRdw_bus (n : BitVec 3) (s : State) :
    (runRdw n s).bus = if n = 1 ∨ n = 2 then s.bus.afterRead (3 * n.toNat) else s.bus := by
  split
  case isTrue hn => rw [runRdw_legal n s ((countLegal_iff_eq n).2 hn), finishRead_bus]
  case isFalse hn =>
    rw [runRdw_illegal n s (Bool.eq_false_iff.2 (mt (countLegal_iff_eq n).1 hn)), raise_bus]

/-- Settles O12: the frame of a served request, the block written by `RDW` alone, and each call with the operation that makes
it. -/
theorem accessMatrix : Obligations.AccessMatrix := fun i s t h => by
  refine ⟨?_, fun hrdw => ?_, fun hrdw hcmd => ?_, ?_, ?_⟩
  · obtain ⟨u, _, hu, _, hhost, hnan, hscript, hindex⟩ := serve_next (encode i) s
    cases hu.symm.trans ((serve_encode i s).trans h)
    exact ⟨hhost, hscript, hindex, hnan⟩
  · rcases serve_block_cases ((serve_encode i s).trans h) with hframe | ⟨n, _, hd, _⟩
    · exact hframe
    · exact absurd (Except.ok.inj ((decode_encode i).symm.trans hd)) (hrdw n)
  · obtain ⟨r, hr⟩ := exec_eq_response hcmd hrdw s
    cases (hr s.response).symm.trans h
    rfl
  · rintro c rfl
    cases h
    cases hc : cmdCode c with
    | none => exact .inl ⟨rfl, by rw [runCmd_illegal c s hc, raise_bus]⟩
    | some k => exact .inr ⟨k, rfl, by rw [runCmd_legal c k s hc]⟩
  · rintro n rfl
    cases h
    exact runRdw_bus n s

/-! ### Answers -/

/-- Settles O16: each selector has its code in the table, and the code's two bytes are the pair. -/
theorem commandSendsOneWrite : Obligations.CommandSendsOneWrite := by
  refine ⟨rfl, rfl, fun s sel r p hmem => ?_⟩
  obtain ⟨c, hc, hsplit⟩ : ∃ c, cmdCode sel = some c ∧ split c = (r, p) := by
    simp only [List.mem_cons, List.not_mem_nil, or_false, Prod.mk.injEq] at hmem
    rcases hmem with ⟨rfl, rfl, rfl⟩ | ⟨rfl, rfl, rfl⟩ | ⟨rfl, rfl, rfl⟩ | ⟨rfl, rfl, rfl⟩ | ⟨rfl, rfl, rfl⟩ <;>
      exact ⟨_, rfl, rfl⟩
  rw [exec, execCmd, runCmd_legal sel c s hc, hsplit]
  rfl

/-- Zeros in front of a field widen it. -/
theorem zero_append_eq_setWidth {n : Nat} (k : Nat) (x : BitVec n) : 0#k ++ x = x.setWidth (k + n) := by
  refine BitVec.eq_of_toNat_eq ?_
  rw [toNat_append_eq, BitVec.toNat_ofNat, Nat.zero_mod, Nat.zero_mul, Nat.zero_add,
    BitVec.toNat_setWidth_of_le (Nat.le_add_left n k)]

/-- The fields of `CHK`'s response lie side by side: word, seven zeros, match bit, checksum (30_encoding R55). -/
theorem chkData_fields (hi lo c : Byte) :
    (chkData ⟨hi, lo, c⟩).extractLsb' 16 16 = hi ++ lo ∧ (chkData ⟨hi, lo, c⟩).extractLsb' 9 7 = 0 ∧
      (chkData ⟨hi, lo, c⟩).getLsbD 8 = decide (crc8 hi lo = c) ∧
      (chkData ⟨hi, lo, c⟩).extractLsb' 0 8 = crc8 hi lo := by
  have hdata : chkData ⟨hi, lo, c⟩ = hi ++ lo ++ 0#7 ++ flagBit (decide (crc8 hi lo = c)) ++ crc8 hi lo := rfl
  rw [hdata]
  refine ⟨?_, ?_, ?_, BitVec.extractLsb'_append_eq_right⟩
  · rw [BitVec.extractLsb'_append_eq_of_le (by decide), BitVec.extractLsb'_append_eq_of_le (by decide),
      BitVec.extractLsb'_append_eq_left]
  · rw [BitVec.extractLsb'_append_eq_of_le (by decide), BitVec.extractLsb'_append_eq_of_le (by decide),
      BitVec.extractLsb'_append_eq_right]
    rfl
  · rw [BitVec.getLsbD_append, if_neg (by decide), BitVec.getLsbD_append, if_pos (by decide)]
    cases decide (crc8 hi lo = c) <;> rfl

/-- Settles O21: both operations are answers and nothing else, `CRC` with the checksum zero-extended and `CHK` with its
fields. -/
theorem validatorAnswers : Obligations.ValidatorAnswers := by
  refine ⟨fun a b s => ?_, fun hi lo c s => ⟨chkData ⟨hi, lo, c⟩, rfl, chkData_fields hi lo c⟩⟩
  rw [zero_append_eq_setWidth]
  rfl

/-- Settles O22: by the length of an OK answer. -/
theorem readDeliversAskedLength : Obligations.ReadDeliversAskedLength := fun b len hlen => by
  cases h : readAnswer len b with
  | notOk => exact .inl rfl
  | ok bytes => exact .inr ⟨bytes, rfl, length_of_readAnswer_eq_ok hlen h⟩

/-- `GET` of a register that holds a value answers it (R105). -/
theorem exec_get_of_regContent {r : BitVec 3} {s : State} {d : Req} (hr : regLegal r = true)
    (hd : regContent r s.block = some d) : exec (.get r) s = .next { s with response := some ⟨.none, d⟩ } := by
  rw [exec, execGet, runGet_eq, getAnswer, hr, hd]
  rfl

/-- Settles O28: the content of each register, which `GET` widens with zeros. -/
theorem registerReadAnswers : Obligations.RegisterReadAnswers := by
  refine ⟨fun s w h => ?_, fun s w h => ?_, fun s => ?_, fun s c h => ?_, fun s c h => ?_⟩
  all_goals
    refine exec_get_of_regContent rfl ?_
    rw [zero_append_eq_setWidth]
    simp [regContent, *]

/-- The data of `IDD` by the bits the identity decode looks at (R117). -/
theorem iddData_eq (w : Word) :
    iddData w = if w.extractLsb' 0 6 = 0x07 then (if w.getLsbD 11 then 0x00000005 else 0x00000000) else 0x00000006 := by
  by_cases hlow : w.extractLsb' 0 6 = 0x07
  · have hid : decodeId w = if w.getLsbD 11 then .shtc3 else .shtc1 := if_pos hlow
    rw [iddData, hid, if_pos hlow]
    cases w.getLsbD 11 <;> rfl
  · have hid : decodeId w = .unknown := if_neg hlow
    rw [iddData, hid, if_neg hlow]
    rfl

/-- Settles O31: the decode answers the data of the word held. -/
theorem identityAnswers : Obligations.IdentityAnswers := fun s w hw => by
  rw [exec, execIdd, decodeWith_eq, hw, Option.elim_some, iddData_eq]

/-! ### The ends of `RDW` -/

/-- `RDW` whose read failed (R104). -/
theorem runRdw_busReadFailed {n : BitVec 3} {s : State} (hn : n = 1 ∨ n = 2)
    (hread : readWords (readAnswer (3 * n.toNat) s.bus) = .busReadFailed) :
    runRdw n s = { s with
      bus := s.bus.afterRead (3 * n.toNat), block := s.block.dropWords, response := some ⟨.busr, 0⟩ } := by
  rw [runRdw_legal n s ((countLegal_iff_eq n).2 hn), finishRead, hread]
  rfl

/-- `RDW` whose frame has a bad group (R104). -/
theorem runRdw_crcMismatch {n : BitVec 3} {s : State} {g : Nat} {x y : Byte} (hn : n = 1 ∨ n = 2)
    (hread : readWords (readAnswer (3 * n.toNat) s.bus) = .crcMismatch g x y) :
    runRdw n s = { s with
      bus := s.bus.afterRead (3 * n.toNat), block := s.block.dropWords.setCrc x y
      response := some ⟨.crc, crcErrorData g x y⟩ } := by
  rw [runRdw_legal n s ((countLegal_iff_eq n).2 hn), finishRead, hread]
  rfl

/-- `RDW` on a good frame (R103). -/
theorem runRdw_words {n : BitVec 3} {s : State} {bytes : List Byte} {ws : List Word} (hn : n = 1 ∨ n = 2)
    (hbytes : readAnswer (3 * n.toNat) s.bus = .ok bytes) (hread : readWords (.ok bytes) = .words ws) :
    runRdw n s = { s with
      bus := s.bus.afterRead (3 * n.toNat), block := storeFrame bytes ws s.block, response := some ⟨.none, 0⟩ } := by
  rw [runRdw_legal n s ((countLegal_iff_eq n).2 hn), finishRead, hbytes, hread]
  rfl

/-- A frame of one matching group delivers its word. -/
theorem readWords_one {hi lo c : Byte} (h : crc8 hi lo = c) : readWords (.ok [hi, lo, c]) = .words [hi ++ lo] :=
  (checkGroups_eq_words_iff 0 [⟨hi, lo, c⟩] _).2 ⟨by simpa using h, rfl⟩

/-- A frame of two matching groups delivers their words. -/
theorem readWords_two {hi lo c hi' lo' c' : Byte} (h : crc8 hi lo = c) (h' : crc8 hi' lo' = c') :
    readWords (.ok [hi, lo, c, hi', lo', c']) = .words [hi ++ lo, hi' ++ lo'] :=
  (checkGroups_eq_words_iff 0 [⟨hi, lo, c⟩, ⟨hi', lo', c'⟩] _).2 ⟨by simpa using ⟨h, h'⟩, rfl⟩

/-- Settles O25: the frame's words with the last group's two checksums, which are equal. -/
theorem readStoresFrame : Obligations.ReadStoresFrame := by
  refine ⟨fun s hi lo c hread h => ?_, fun s hi lo c hi' lo' c' hread h h' => ?_⟩
  · rw [exec, execRdw, runRdw_words (.inl rfl) hread (readWords_one h), ← h]
    rfl
  · rw [exec, execRdw, runRdw_words (.inr rfl) hread (readWords_two h h'), ← h']
    rfl

/-- Settles O26: by the first end of `RDW`. -/
theorem readBusFailure : Obligations.ReadBusFailure := by
  refine ⟨rfl, fun s n hn hread => ?_⟩
  have hfailed : readWords (readAnswer (3 * n.toNat) s.bus) = .busReadFailed := by rw [hread, readWords]
  exact congrArg Host.Outcome.next (runRdw_busReadFailed hn hfailed)

/-- Settles O27: by the second end of `RDW`, at the group where the check of the frame ends. -/
theorem readCrcMismatch : Obligations.ReadCrcMismatch := by
  obtain ⟨_, _, hfirst⟩ := readWordsFunction
  refine ⟨rfl, fun s n before g after hn _ hread hbefore hg => ?_⟩
  have hmismatch := hread ▸ hfirst before g after hbefore hg
  exact congrArg Host.Outcome.next (runRdw_crcMismatch hn hmismatch)

/-! ### One corrupted byte -/

/-- Changing one byte of a frame of matching groups leaves a group that does not match: the changed group's checksum is a
bijection in each of its bytes (R96, R101). -/
theorem exists_bad_group_of_set (gs : List Group) (hgs : ∀ g ∈ gs, crc8 g.hi g.lo = g.crc) (k : Nat) (x : Byte)
    (hk : k < (gs.flatMap fun g => [g.hi, g.lo, g.crc]).length)
    (hx : x ≠ (gs.flatMap fun g => [g.hi, g.lo, g.crc])[k]) :
    ∃ g ∈ groupsOf ((gs.flatMap fun g => [g.hi, g.lo, g.crc]).set k x), crc8 g.hi g.lo ≠ g.crc := by
  induction gs generalizing k with
  | nil => exact absurd hk (Nat.not_lt_zero k)
  | cons g gs ih =>
    obtain ⟨hg, hgs⟩ := List.forall_mem_cons.1 hgs
    match k with
    | 0 => exact ⟨⟨x, g.lo, g.crc⟩, List.mem_cons_self, hg ▸ (crc8_bijective_left g.lo).injective.ne hx⟩
    | 1 => exact ⟨⟨g.hi, x, g.crc⟩, List.mem_cons_self, hg ▸ (crc8_bijective_right g.hi).injective.ne hx⟩
    | 2 => exact ⟨⟨g.hi, g.lo, x⟩, List.mem_cons_self, fun h => hx (h.symm.trans hg)⟩
    | k + 3 =>
      obtain ⟨b, hb, hbad⟩ := ih hgs k (by simpa using hk) (by simpa using hx)
      exact ⟨b, List.mem_cons_of_mem g hb, hbad⟩

/-- Settles O24: words are delivered only when every group matches, and the changed group does not. -/
theorem corruptedByteRejectsFrame : Obligations.CorruptedByteRejectsFrame := fun gs k x hgs hk hx ws hws => by
  obtain ⟨g, hg, hbad⟩ := exists_bad_group_of_set gs hgs k x hk hx
  exact hbad (((checkGroups_eq_words_iff 0 _ ws).1 hws).1 g hg)

end Sys2Proof.Machine
end

section
/-! The two conversions: the evaluation with roundings is exact at every operation, and the delivered pattern is a plain
binary32 number whose value is exactly the formula's (43_decoders R118 to R125). -/

namespace Sys2Proof.Machine

/-! ### The evaluation with rounding at each operation (R120, R121) -/

section

variable {c : Int} {x : Scaled}

/-- A number whose significand fits 24 bits is not changed by rounding. -/
theorem roundSig_eq_self (h : x.num.natAbs < 2 ^ 24) : roundSig x = x := if_pos h

theorem fMul_eq (h : (c * x.num).natAbs < 2 ^ 24) : fMul c x = ⟨c * x.num, x.exp⟩ := roundSig_eq_self h

theorem fDiv65536_eq (h : x.num.natAbs < 2 ^ 24) : fDiv65536 x = ⟨x.num, x.exp + 16⟩ := roundSig_eq_self h

end

/-- A word times either factor fits 24 bits. -/
theorem natAbs_mul_word_lt {c : Int} (hpos : 0 ≤ c) (hc : c ≤ 175) (w : Word) : (c * (w.toNat : Int)).natAbs < 2 ^ 24 := by
  have hprod : c * (w.toNat : Int) ≤ 175 * 65535 := by
    have hw : (w.toNat : Int) ≤ 65535 := by have := w.isLt; omega
    exact mul_le_mul hc hw (Int.natCast_nonneg _) (by decide)
  have hnonneg : 0 ≤ c * (w.toNat : Int) := mul_nonneg hpos (Int.natCast_nonneg _)
  omega

theorem natAbs_word_lt (w : Word) : (w.toNat : Int).natAbs < 2 ^ 24 := by
  have := w.isLt
  omega

theorem natAbs_tempNum_lt (w : Word) : (tempNum w).natAbs < 2 ^ 24 := by
  have := w.isLt
  unfold tempNum
  omega

theorem natAbs_humNum_lt (w : Word) : (humNum w).natAbs < 2 ^ 24 := natAbs_mul_word_lt (by decide) (by decide) w

/-- The last operation of the temperature, exact like the others. -/
theorem fSub_eq_tempNum (w : Word) : fSub ⟨175 * w.toNat, 16⟩ 45 = ⟨tempNum w, 16⟩ := by
  have hnum : 175 * (w.toNat : Int) - 45 * 2 ^ 16 = tempNum w := by norm_num [tempNum]
  rw [fSub, hnum]
  exact roundSig_eq_self (natAbs_tempNum_lt w)

theorem tempEval_eq (w : Word) : tempEval w = ⟨tempNum w, 16⟩ := by
  have hmul := natAbs_mul_word_lt (c := 175) (by decide) (by decide) w
  rw [tempEval, fMul_eq hmul, fDiv65536_eq hmul]
  exact fSub_eq_tempNum w

theorem tempEvalDivFirst_eq (w : Word) : tempEvalDivFirst w = ⟨tempNum w, 16⟩ := by
  have hmul := natAbs_mul_word_lt (c := 175) (by decide) (by decide) w
  rw [tempEvalDivFirst, fDiv65536_eq (natAbs_word_lt w), fMul_eq hmul]
  exact fSub_eq_tempNum w

theorem humEval_eq (w : Word) : humEval w = ⟨humNum w, 16⟩ := by
  rw [humEval, fMul_eq (natAbs_humNum_lt w)]
  exact fDiv65536_eq (natAbs_humNum_lt w)

theorem humEvalDivFirst_eq (w : Word) : humEvalDivFirst w = ⟨humNum w, 16⟩ := by
  rw [humEvalDivFirst, fDiv65536_eq (natAbs_word_lt w)]
  exact fMul_eq (natAbs_humNum_lt w)

/-- Settles O33: no operation needs a rounding, so all four evaluations end at the exact numerator over `2^16`. -/
theorem evaluationIsExact : Obligations.EvaluationIsExact := fun w => by
  rw [tempEval_eq, tempEvalDivFirst_eq, humEval_eq, humEvalDivFirst_eq]
  exact ⟨rfl, rfl, rfl, rfl⟩

/-! ### The fields of a pattern (30_encoding R63) -/

section

variable (sign : BitVec 1) (e : BitVec 8) (f : BitVec 23)

theorem f32Sign_fields : f32Sign (sign ++ e ++ f) = sign.getLsbD 0 := by
  rw [f32Sign, BitVec.getLsbD_append, if_neg (by decide), BitVec.getLsbD_append, if_neg (by decide)]

theorem f32Exp_fields : f32Exp (sign ++ e ++ f) = e := by
  rw [f32Exp, BitVec.extractLsb'_append_eq_of_le (by decide), BitVec.extractLsb'_append_eq_right]

theorem f32Frac_fields : f32Frac (sign ++ e ++ f) = f := BitVec.extractLsb'_append_eq_right

variable {e}

/-- A pattern whose exponent field is not zero is not positive zero. -/
theorem fields_ne_zero (he : e ≠ 0) : sign ++ e ++ f ≠ 0 := fun h => he <| by
  rw [← f32Exp_fields sign e f, h]
  rfl

theorem isPlain_fields (he : e ≠ 0) (he' : e ≠ 0xFF) : isPlain (sign ++ e ++ f) = true := by
  rw [isPlain, f32Exp_fields, bne_iff_ne.2 he, bne_iff_ne.2 he', Bool.and_self, Bool.or_true]

theorem f32Value_fields (he : e ≠ 0) : f32Value (sign ++ e ++ f) =
    (if sign.getLsbD 0 then -1 else 1) * (1 + f.toNat / 2 ^ 23) * (2 : ℚ) ^ (e.toNat - 127 : Int) := by
  rw [f32Value, if_neg (fields_ne_zero sign f he), f32Sign_fields, f32Exp_fields, f32Frac_fields]

end

/-- A plain pattern is no NaN. -/
theorem isNan_of_isPlain {b : Req} (h : isPlain b = true) : isNan b = false := by
  rcases Bool.or_eq_true_iff.1 h with hzero | hexp
  · rw [beq_iff_eq.1 hzero]
    rfl
  · rw [isNan, beq_eq_false_iff_ne.2 (bne_iff_ne.1 (Bool.and_eq_true_iff.1 hexp).1), Bool.false_and]

/-! ### The pattern of an exactly held value (R122) -/

section

variable {a : Nat} (hpos : a ≠ 0) (hlt : a < 2 ^ 24)

include hpos hlt

theorem log2_le_of_lt : a.log2 ≤ 23 := Nat.le_of_lt_succ ((Nat.log2_lt hpos).2 hlt)

/-- Shifted until its leading bit is bit 23, a number below `2^24` loses nothing. -/
theorem significand_eq : a * 2 ^ 23 / 2 ^ a.log2 = a * 2 ^ (23 - a.log2) := by
  have hsplit : 2 ^ 23 = 2 ^ (23 - a.log2) * 2 ^ a.log2 := by
    rw [← pow_add, Nat.sub_add_cancel (log2_le_of_lt hpos hlt)]
  rw [hsplit, ← Nat.mul_assoc, Nat.mul_div_cancel _ (Nat.two_pow_pos _)]

/-- The shifted number is in `2^23` to `2^24`, so the fraction field holds it without its leading bit. -/
theorem significand_bounds :
    2 ^ 23 ≤ a * 2 ^ (23 - a.log2) ∧ a * 2 ^ (23 - a.log2) < 2 ^ 24 := by
  have htop := log2_le_of_lt hpos hlt
  constructor
  · calc 2 ^ 23 = 2 ^ a.log2 * 2 ^ (23 - a.log2) := by rw [← pow_add, Nat.add_sub_cancel' htop]
      _ ≤ a * 2 ^ (23 - a.log2) := Nat.mul_le_mul_right _ (Nat.log2_self_le hpos)
  · calc a * 2 ^ (23 - a.log2) < 2 ^ (a.log2 + 1) * 2 ^ (23 - a.log2) :=
        Nat.mul_lt_mul_of_pos_right Nat.lt_log2_self (Nat.two_pow_pos _)
      _ = 2 ^ 24 := by rw [← pow_add]; congr 1; omega

theorem toNat_fraction :
    (BitVec.ofNat 23 (a * 2 ^ 23 / 2 ^ a.log2 - 2 ^ 23)).toNat = a * 2 ^ (23 - a.log2) - 2 ^ 23 := by
  have hbounds := significand_bounds hpos hlt
  rw [significand_eq hpos hlt, BitVec.toNat_ofNat, Nat.mod_eq_of_lt (by omega)]

/-- One plus the fraction, times the power of two the exponent field stands for, is the number over `2^k`. -/
theorem significand_value {k : Nat} :
    (1 + ((BitVec.ofNat 23 (a * 2 ^ 23 / 2 ^ a.log2 - 2 ^ 23)).toNat : ℚ) / 2 ^ 23) * 2 ^ ((a.log2 : Int) - k) =
      a / 2 ^ k := by
  obtain ⟨hlow, _⟩ := significand_bounds hpos hlt
  have hsplit : (2 : ℚ) ^ (23 - a.log2) * 2 ^ a.log2 = 2 ^ 23 := by
    rw [← pow_add, Nat.sub_add_cancel (log2_le_of_lt hpos hlt)]
  have hcast : ((a * 2 ^ (23 - a.log2) - 2 ^ 23 : Nat) : ℚ) = a * 2 ^ (23 - a.log2) - 2 ^ 23 := by
    rw [Nat.cast_sub hlow, Nat.cast_mul, Nat.cast_pow, Nat.cast_pow, Nat.cast_ofNat]
  rw [toNat_fraction hpos hlt, hcast, zpow_sub₀ two_ne_zero, zpow_natCast, zpow_natCast]
  calc (1 + ((a : ℚ) * 2 ^ (23 - a.log2) - 2 ^ 23) / 2 ^ 23) * ((2 : ℚ) ^ a.log2 / 2 ^ k)
      = (a : ℚ) * (2 ^ (23 - a.log2) * 2 ^ a.log2) / 2 ^ 23 / 2 ^ k := by ring
    _ = (a : ℚ) / 2 ^ k := by rw [hsplit, mul_div_cancel_right₀ _ (by norm_num)]

end

/-- The biased exponent of a number below `2^24` over a power of two up to `2^126` is neither 0 nor 255. -/
theorem toNat_biasedExponent {top k : Nat} (htop : top ≤ 23) (hk : k ≤ 126) :
    (BitVec.ofNat 8 (top + 127 - k)).toNat = top + 127 - k := by
  rw [BitVec.toNat_ofNat, Nat.mod_eq_of_lt (by omega)]

/-- The pattern of a number with a significand of at most 24 bits is plain and has exactly its value. -/
theorem f32_exact {num : Int} {k : Nat} (hk : k ≤ 126) (hlt : num.natAbs < 2 ^ 24) :
    isPlain (f32 num k) = true ∧ f32Value (f32 num k) = num / 2 ^ k := by
  by_cases hnum : num = 0
  · subst hnum
    exact ⟨rfl, by simp [f32, f32Value]⟩
  have hpos : num.natAbs ≠ 0 := Int.natAbs_ne_zero.2 hnum
  have htop := log2_le_of_lt hpos hlt
  have hexp := toNat_biasedExponent htop hk
  have he : BitVec.ofNat 8 (num.natAbs.log2 + 127 - k) ≠ 0 := fun h => by
    rw [h] at hexp
    change 0 = _ at hexp
    omega
  have he' : BitVec.ofNat 8 (num.natAbs.log2 + 127 - k) ≠ 0xFF := fun h => by
    rw [h] at hexp
    change 255 = _ at hexp
    omega
  have hint : ((num.natAbs.log2 + 127 - k : Nat) : Int) - 127 = num.natAbs.log2 - k := by omega
  rw [f32, if_neg hnum]
  refine ⟨isPlain_fields _ _ he he', ?_⟩
  rw [f32Value_fields _ _ he, hexp, hint, mul_assoc, significand_value hpos hlt]
  by_cases hneg : num < 0
  · have hcast : ((num.natAbs : Nat) : ℚ) = -num := by
      rw [← Int.cast_natCast, Int.ofNat_natAbs_of_nonpos hneg.le, Int.cast_neg]
    rw [hcast, if_pos hneg, if_pos (by decide)]
    ring
  · have hcast : ((num.natAbs : Nat) : ℚ) = num := by
      rw [← Int.cast_natCast, Int.natAbs_of_nonneg (not_lt.1 hneg)]
    rw [hcast, if_neg hneg, if_neg (by decide), one_mul]

theorem isPlain_cvtData (w : Word) : isPlain (cvtData w) = true := (f32_exact (by decide) (natAbs_tempNum_lt w)).1

theorem isPlain_cvhData (w : Word) : isPlain (cvhData w) = true := (f32_exact (by decide) (natAbs_humNum_lt w)).1

theorem f32Value_cvtData (w : Word) : f32Value (cvtData w) = 175 * (w.toNat : ℚ) / 65536 - 45 := by
  rw [cvtData, (f32_exact (by decide) (natAbs_tempNum_lt w)).2, tempNum]
  push_cast
  ring

theorem f32Value_cvhData (w : Word) : f32Value (cvhData w) = 100 * (w.toNat : ℚ) / 65536 := by
  rw [cvhData, (f32_exact (by decide) (natAbs_humNum_lt w)).2, humNum]
  push_cast
  ring

/-- Settles O32: the answers are the patterns of the two exact numerators over `2^16`. -/
theorem conversionsAreExact : Obligations.ConversionsAreExact := by
  refine ⟨fun s w hw => ⟨cvtData w, ?_, isPlain_cvtData w, f32Value_cvtData w⟩,
    fun s w hw => ⟨cvhData w, ?_, isPlain_cvhData w, f32Value_cvhData w⟩⟩
  · rw [exec, execCvt, decodeWith_eq, hw, Option.elim_some]
  · rw [exec, execCvh, decodeWith_eq, hw, Option.elim_some]

/-! ### The properties of the delivered patterns (R125) -/

theorem toNat_allOnes : (0xFFFF : Word).toNat = 65535 := rfl

theorem toNat_le_word_max (w : Word) : (w.toNat : ℚ) ≤ 65535 := by exact_mod_cast Nat.le_of_lt_succ w.isLt

/-- The temperature is below zero exactly up to the word 16852, which is `45 * 65536 / 175` rounded down, and never zero. -/
theorem f32Value_cvtData_sign (w : Word) :
    f32Value (cvtData w) ≠ 0 ∧ (f32Value (cvtData w) < 0 ↔ w.toNat ≤ 16852) := by
  rw [f32Value_cvtData]
  constructor
  · intro h
    have hzero : 175 * w.toNat = 2949120 := by
      have hrat : 175 * (w.toNat : ℚ) = 2949120 := by linarith
      exact_mod_cast hrat
    omega
  · constructor
    · intro h
      have hlt : 175 * w.toNat < 2949120 := by
        have hrat : 175 * (w.toNat : ℚ) < 2949120 := by linarith
        exact_mod_cast hrat
      omega
    · intro h
      have hrat : (w.toNat : ℚ) ≤ 16852 := by exact_mod_cast h
      linarith

theorem cvtData_injective : Function.Injective cvtData := fun w v h => by
  have hvalue := congrArg f32Value h
  rw [f32Value_cvtData, f32Value_cvtData] at hvalue
  have hrat : (w.toNat : ℚ) = v.toNat := by linarith
  exact BitVec.eq_of_toNat_eq (by exact_mod_cast hrat)

theorem cvhData_injective : Function.Injective cvhData := fun w v h => by
  have hvalue := congrArg f32Value h
  rw [f32Value_cvhData, f32Value_cvhData] at hvalue
  have hrat : (w.toNat : ℚ) = v.toNat := by linarith
  exact BitVec.eq_of_toNat_eq (by exact_mod_cast hrat)

/-- Settles O34: each property is one of the exact values, which are linear in the word. -/
theorem conversionProperties : Obligations.ConversionProperties := by
  refine ⟨fun w v hwv => ?_, ?_, ?_, rfl, ?_, fun w => ?_, cvtData_injective, cvhData_injective⟩
  · have hv : (v.toNat : ℚ) = w.toNat + 1 := by exact_mod_cast hwv.symm
    rw [f32Value_cvtData, f32Value_cvtData, f32Value_cvhData, f32Value_cvhData, hv]
    constructor <;> ring
  · rw [f32Value_cvtData]
    norm_num
  · rw [f32Value_cvtData, toNat_allOnes]
    norm_num
  · rw [f32Value_cvhData, toNat_allOnes]
    norm_num
  · obtain ⟨hne, hsign⟩ := f32Value_cvtData_sign w
    have hmax : f32Value (cvhData w) < 100 := by
      rw [f32Value_cvhData]
      linarith [toNat_le_word_max w]
    exact ⟨hne, hsign, hmax, isPlain_cvtData w, isPlain_cvhData w, isNan_of_isPlain (isPlain_cvtData w),
      isNan_of_isPlain (isPlain_cvhData w)⟩

end Sys2Proof.Machine
end

section
/-! The host around the block: what stays as it is over any step, which steps change the warning and the wait, and the outcome
of each step of setup, of a tick and of a completion (44_host_sequences R130 to R151). -/

namespace Sys2Proof.Machine

/-! ### What any step leaves of the host -/

/-- A step reaches the transport only for a request of the script, a request that is abandoned, or one of the host's task. -/
theorem step_bus_eq {s t : State} (h : step s = .next t) (hreq : ∀ w, s.script[s.index]? ≠ some (.request w))
    (habort : ∀ w called, s.script[s.index]? ≠ some (.abort w called)) (hidle : s.host.phase = .idle) : t.bus = s.bus := by
  rcases (step_block_cases h).2 with ⟨w, _, hw | ⟨_, hw⟩, _⟩ | ⟨_, hbus | ⟨w, called, hw⟩⟩ | ⟨_, hbus⟩
  · exact absurd hw (hreq w)
  · simp [hidle, hostRequest] at hw
  · exact hbus
  · exact absurd hw (habort w called)
  · exact hbus

/-- After a failed setup nothing but the dump's log line changes in the host (R133, R148). -/
theorem step_host_of_failed {s t : State} (hok : s.host.Ok) (hfailed : s.host.failed = true) (h : step s = .next t) :
    t.host = s.host ∨ ∃ l, t.host = s.host.note l := by
  obtain ⟨_, hfinal, _, _, hpending, _⟩ := hok
  obtain ⟨hv, hidle⟩ := hfinal hfailed
  rcases step_host_cases s t h with ⟨_, hp, _⟩ | ⟨_, _, hf, _⟩ | ⟨_, _, hf, _⟩ | ⟨_, left, _, htimer, _⟩ | ⟨_, e⟩ | ⟨e, _⟩
  · exact absurd hidle hp
  · simp [hfailed] at hf
  · simp [hfailed] at hf
  · obtain ⟨_, hsome, _⟩ := hpending (by rw [htimer]; rfl)
    simp [hv] at hsome
  · exact .inr ⟨_, e⟩
  · exact .inl e

/-- Settles O42: the host stays as it is but for its log, and its task is idle, so it has no request. -/
theorem failedSetupIsFinal : Obligations.FailedSetupIsFinal := fun s t ⟨_, _, hok⟩ hfailed h => by
  obtain ⟨hid, hfinal, _⟩ := id hok
  obtain ⟨hv, hidle⟩ := hfinal hfailed
  have hid : s.host.identity = none := by simpa [hv] using hid
  have hbus := fun hreq habort => step_bus_eq h hreq habort hidle
  rcases step_host_of_failed hok hfailed h with e | ⟨l, e⟩ <;> rw [e] <;>
    exact ⟨hfailed, hv, hid, hidle, rfl, rfl, hbus⟩

/-- Settles O43: setup does not run when a variant is stored, and outside setup no response changes either field. -/
theorem identityWrittenOnce : Obligations.IdentityWrittenOnce := fun s t v ⟨_, _, hok⟩ hv h => by
  obtain ⟨_, _, _, hs, _⟩ := hok.identified (by rw [hv]; rfl)
  rcases step_host_cases s t h with ⟨_, _, r, _, e⟩ | ⟨_, _, _, hnone, _⟩ | ⟨_, _, _, _, _, e⟩ |
    ⟨_, _, _, _, ⟨_, _, e⟩ | ⟨_, e⟩⟩ | ⟨_, e⟩ | ⟨e, _⟩
  · obtain ⟨hvariant, hidentity, _⟩ := absorb_task_frame hs s.nanBits r
    exact ⟨e ▸ hvariant.trans hv, e ▸ hidentity⟩
  · cases hv.symm.trans hnone
  all_goals
    rw [e]
    exact ⟨hv, rfl⟩

/-! ### The warning (R143) -/

section

variable {h : HostState} {r : Response} (nan : Req)

theorem absorb_warn_of_error (hp : h.phase = .tickPoll ∨ h.phase = .readFrame) (hr : r.err ≠ .none) :
    (absorb nan r h).warn = true := by
  rcases hp with hp | hp <;> simp [absorb, hp, hr]

theorem absorb_warn_of_convertHum {temp : Req} (hp : h.phase = .convertHum temp) : (absorb nan r h).warn = false := by
  simp [absorb, hp]

/-- No other response changes the warning. -/
theorem absorb_warn_eq (hp : h.phase = .tickPoll ∨ h.phase = .readFrame → r.err = .none)
    (hq : ∀ temp, h.phase ≠ .convertHum temp) : (absorb nan r h).warn = h.warn := by
  cases hs : h.phase.inSetup with
  | true => rcases absorb_setup_cases hs nan r with ⟨_, _, e⟩ | ⟨_, e⟩ | ⟨_, _, e⟩ <;> rw [e] <;> rfl
  | false =>
    cases hphase : h.phase with
    | idle | tickReset | tickWake | convertTemp | sleep => simp [absorb, hphase]
    | tickPoll => simp [absorb, hphase, hp (.inl hphase)]
    | readFrame => simp [absorb, hphase, hp (.inr hphase)]
    | convertHum temp => exact absurd hphase (hq temp)
    | _ => simp [hphase, Phase.inSetup] at hs

/-- The steps a response can lead to; to the conversions only from the step before, and to the first only without an error. -/
theorem absorb_phase_cases : (absorb nan r h).phase.inSetup = true ∨
    (absorb nan r h).phase ∈ [Phase.idle, .tickWake, .tickPoll, .sleep] ∨
    (h.phase = .readFrame ∧ r.err = .none ∧ (absorb nan r h).phase = .convertTemp) ∨
    (h.phase = .convertTemp ∧ (absorb nan r h).phase = .convertHum r.data) := by
  cases hs : h.phase.inSetup with
  | true =>
    rcases absorb_setup_cases hs nan r with ⟨p, hp, e⟩ | ⟨_, e⟩ | ⟨_, _, e⟩ <;> rw [e]
    · exact .inl hp
    · exact .inr (.inl List.mem_cons_self)
    · exact .inr (.inl List.mem_cons_self)
  | false =>
    have hwarm : afterWarmUp h = .tickWake ∨ afterWarmUp h = .tickPoll := by unfold afterWarmUp; split <;> simp
    have hread : afterRead h = .sleep ∨ afterRead h = .idle := by unfold afterRead; split <;> simp
    cases hphase : h.phase with
    | idle | tickWake | sleep => simp [absorb, hphase]
    | tickReset => rcases hwarm with e | e <;> simp [absorb, hphase, e]
    | tickPoll => by_cases hr : r.err = .none <;> simp [absorb, hphase, hr]
    | readFrame => by_cases hr : r.err = .none <;> rcases hread with e | e <;> simp [absorb, hphase, hr, e]
    | convertTemp => simp [absorb, hphase]
    | convertHum temp => rcases hread with e | e <;> simp [absorb, hphase, e]
    | _ => simp [hphase, Phase.inSetup] at hs

end

/-- A step hands a response to the host's task, or it is an event that leaves the warning and starts no conversion. -/
theorem step_host_response_or_event {s t : State} (h : step s = .next t) :
    (s.script[s.index]? = some .proceed ∧ ∃ r, t.response = some r ∧ t.host = absorb s.nanBits r s.host) ∨
    ((s.script[s.index]? = some .proceed → s.host.phase = .idle) ∧ t.host.warn = s.host.warn ∧
      (t.host.phase = s.host.phase ∨
        t.host.phase ∈ [Phase.setupWake, .tickReset, .tickWake, .tickPoll, .readFrame])) := by
  have other {e : Event} (he : s.script[s.index]? = some e) (hne : e ≠ .proceed)
      (hp : s.script[s.index]? = some .proceed) : s.host.phase = .idle :=
    absurd (Option.some.inj (he.symm.trans hp)) hne
  rcases step_host_cases s t h with ⟨he, _, hr⟩ | ⟨he, _, _, _, e⟩ | ⟨he, _, _, _, _, e⟩ |
    ⟨ms, left, he, _, ⟨_, _, e⟩ | ⟨_, e⟩⟩ | ⟨he, e⟩ | ⟨e, hidle⟩
  · exact .inl ⟨he, hr⟩
  · exact .inr ⟨other he nofun, by rw [e]; rfl, by simp [e]⟩
  · refine .inr ⟨other he nofun, by rw [e]; rfl, .inr ?_⟩
    rw [e, goTo_phase, afterWarmUp]
    cases s.host.warn <;> cases s.host.sleeps <;> simp
  · exact .inr ⟨other he nofun, by rw [e], by simp [e]⟩
  · exact .inr ⟨other he nofun, by rw [e], by simp [e]⟩
  · exact .inr ⟨other he nofun, by rw [e]; rfl, by simp [e]⟩
  · exact .inr ⟨hidle, by rw [e], by simp [e]⟩

/-- Settles O44: only a response changes the warning or starts a conversion, and for each response the step of the task says
which. -/
theorem warningChanges : Obligations.WarningChanges := fun s t h => by
  rcases step_host_response_or_event h with ⟨he, r, hr, e⟩ | ⟨hidle, hwarn, hphase⟩
  · rw [e, hr]
    have hchange (hne : (absorb s.nanBits r s.host).warn ≠ s.host.warn) :
        ((s.host.phase = .tickPoll ∨ s.host.phase = .readFrame) ∧ r.err ≠ .none) ∨
          ∃ temp, s.host.phase = .convertHum temp := by
      by_contra hno
      obtain ⟨hpoll, hhum⟩ := not_or.1 hno
      exact hne (absorb_warn_eq s.nanBits (fun hp => not_not.1 fun hr => hpoll ⟨hp, hr⟩) (not_exists.1 hhum))
    refine ⟨fun hs ht => ?_, fun _ hp r' hr' hne => ?_, fun hs ht => ?_, fun _ temp hp => absorb_warn_of_convertHum s.nanBits hp,
      fun temp ht => .inr ⟨he, ?_⟩, fun ht => .inr ⟨he, ?_⟩⟩
    · rcases hchange (by simp [hs, ht]) with ⟨hp, hne⟩ | ⟨temp, hp⟩
      · exact ⟨he, hp, r, rfl, hne⟩
      · simp [absorb_warn_of_convertHum s.nanBits hp] at ht
    · cases hr'
      exact absorb_warn_of_error s.nanBits hp hne
    · rcases hchange (by simp [hs, ht]) with ⟨hp, hne⟩ | hhum
      · simp [absorb_warn_of_error s.nanBits hp hne] at ht
      · exact ⟨he, hhum⟩
    · rcases absorb_phase_cases (h := s.host) (r := r) s.nanBits with hs | hmem | ⟨_, _, hp⟩ | ⟨hp, _⟩
      · simp [ht, Phase.inSetup] at hs
      · simp [ht] at hmem
      · simp [ht] at hp
      · exact hp
    · rcases absorb_phase_cases (h := s.host) (r := r) s.nanBits with hs | hmem | ⟨hp, herr, _⟩ | ⟨_, hp⟩
      · simp [ht, Phase.inSetup] at hs
      · simp [ht] at hmem
      · exact ⟨hp, r.data, by rw [← herr]⟩
      · simp [ht] at hp
  · refine ⟨fun hs ht => ?_, fun hp hphase => ?_, fun hs ht => ?_, fun hp temp hphase => ?_, fun temp ht => .inl ?_, fun ht => .inl ?_⟩
    · simp [hwarn, hs] at ht
    · simp [hidle hp] at hphase
    · simp [hwarn, hs] at ht
    · simp [hidle hp] at hphase
    · simpa [ht, eq_comm] using hphase
    · simpa [ht, eq_comm] using hphase

end Sys2Proof.Machine
end

section
/-! The sequences of the host, step by step: setup, the tick and the completion, each request with what the host does with its
response (44_host_sequences R132 to R142, R151). -/

namespace Sys2Proof.Machine

/-! ### The choice after warm-up and after a read (R116, R137, R142) -/

theorem sleeps_iff (h : HostState) : h.sleeps = true ↔ h.variant = some .shtc3 ∨ h.variant = some .unknown := by
  rcases hv : h.variant with _ | _ | _ | _ <;> simp [HostState.sleeps, hv, hasSleep]

theorem afterWarmUp_eq (h : HostState) :
    afterWarmUp h = if h.variant = some .shtc3 ∨ h.variant = some .unknown then .tickWake else .tickPoll :=
  if_congr (sleeps_iff h) rfl rfl

theorem afterRead_eq (h : HostState) :
    afterRead h = if h.variant = some .shtc3 ∨ h.variant = some .unknown then .sleep else .idle :=
  if_congr (sleeps_iff h) rfl rfl

theorem afterWarmUp_of_variant {h : HostState} {v : Variant} (hv : h.variant = some v) :
    afterWarmUp h = if v = .shtc1 then .tickPoll else .tickWake := by
  rw [afterWarmUp_eq, hv]
  cases v <;> rfl

/-! ### One request of the host's task -/

/-- The step in which the host's task runs an instruction: its effect, and what the host does with the response. -/
theorem step_proceed_exec {s u : State} {i : Instr} {r : Response} (he : s.script[s.index]? = some .proceed)
    (hw : hostRequest s.host.phase = some (encode i)) (hu : exec i { s with index := s.index + 1 } = .next u)
    (hr : u.response = some r) : step s = .next { u with host := absorb s.nanBits r s.host } := by
  obtain ⟨u', _, hu', _, hhost, hnan, _⟩ := serve_next (encode i) { s with index := s.index + 1 }
  cases hu'.symm.trans ((serve_encode i _).trans hu)
  rw [step_proceed s _ _ i he hw (decode_encode i) hu, takeResponse_eq hr, hhost, hnan]

/-- The step in which the host's task sends a command that the transport takes. -/
theorem step_command_ok {s : State} {sel : BitVec 3} {c : Word} (he : s.script[s.index]? = some .proceed)
    (hw : hostRequest s.host.phase = some (encode (.cmd sel))) (hc : cmdCode sel = some c)
    (hok : writeAnswer s.bus = true) :
    step s = .next { s with
      index := s.index + 1, bus := s.bus.afterWrite (split c).1 (split c).2, response := some ⟨.none, 0⟩
      host := absorb s.nanBits ⟨.none, 0⟩ s.host } := by
  rw [step_proceed_cmd s sel c he hw hc, hok]
  rfl

/-- The step in which the host's task sends a command that the transport refuses. -/
theorem step_command_failed {s : State} {sel : BitVec 3} {c : Word} (he : s.script[s.index]? = some .proceed)
    (hw : hostRequest s.host.phase = some (encode (.cmd sel))) (hc : cmdCode sel = some c)
    (hfailed : writeAnswer s.bus = false) :
    step s = .next { s with
      index := s.index + 1, bus := s.bus.afterWrite (split c).1 (split c).2, response := some ⟨.busw, 0⟩
      host := absorb s.nanBits ⟨.busw, 0⟩ s.host } := by
  rw [step_proceed_cmd s sel c he hw hc, hfailed]
  rfl

/-- The step in which the host's task reads a frame and the read fails, in the transport or in a checksum: no word is left and
the host takes an error. -/
theorem step_read_failed {s : State} {n : BitVec 3} (hn : n = 1 ∨ n = 2) (he : s.script[s.index]? = some .proceed)
    (hw : hostRequest s.host.phase = some (encode (.rdw n)))
    (hread : ∀ ws, readWords (readAnswer (3 * n.toNat) s.bus) ≠ .words ws) :
    ∃ t r, step s = .next t ∧ r.err ≠ .none ∧ t.host = absorb s.nanBits r s.host ∧ t.block.w0 = none ∧
      t.block.w1 = none := by
  cases hr : readWords (readAnswer (3 * n.toNat) s.bus) with
  | busReadFailed =>
    exact ⟨_, _, step_proceed_exec he hw (congrArg Host.Outcome.next (runRdw_busReadFailed hn hr)) rfl,
      (nofun : ErrCode.busr ≠ .none), rfl, rfl, rfl⟩
  | crcMismatch g x y =>
    exact ⟨_, _, step_proceed_exec he hw (congrArg Host.Outcome.next (runRdw_crcMismatch hn hr)) rfl,
      (nofun : ErrCode.crc ≠ .none), rfl, rfl, rfl⟩
  | words ws => exact absurd hr (hread ws)

/-! ### The tick -/

/-- Settles O49: the tick event starts the warm-up check, and the step after the soft reset is the same as without it. -/
theorem tickStartsWithRecovery : Obligations.TickStartsWithRecovery := fun s v he hfailed hv hidle htimer => by
  refine ⟨?_, fun nan r => ?_⟩
  · have hstart : ¬(s.host.failed = true ∨ s.host.variant = none) := by simp [hfailed, hv]
    have hpending : s.host.pending = false := by rw [HostState.pending, htimer]; rfl
    rw [step_of_event he, runEvent, hostTick, if_neg hstart, if_neg (not_not.2 hidle), if_neg (by simp [hpending]),
      afterWarmUp_of_variant hv]
    rfl
  · have hnext := afterWarmUp_of_variant (h := { s.host with phase := .tickReset }) hv
    simp only [absorb, hnext]
    rfl

/-- Settles O51: the three steps go on alike from an empty success and from `E_BUSW`. -/
theorem ignoredCommandResults : Obligations.IgnoredCommandResults := fun s he => by
  refine ⟨fun hp => ?_, fun hp => ?_, fun hp => ?_⟩
  · refine ⟨_, step_proceed_cmd s 3 0x805D he (by rw [hp]; rfl) rfl, ?_⟩
    rw [← afterWarmUp_eq]
    simp only [absorb, hp]
    rfl
  · refine ⟨_, step_proceed_cmd s 1 0x3517 he (by rw [hp]; rfl) rfl, ?_⟩
    simp only [absorb, hp]
    rfl
  · refine ⟨_, step_proceed_cmd s 0 0xB098 he (by rw [hp]; rfl) rfl, ?_⟩
    simp only [absorb, hp]
    rfl

/-- Settles O46: the poll's `E_BUSW` is acted on, and the wait stays as it was. -/
theorem failedPollPublishesMarkers : Obligations.FailedPollPublishesMarkers := fun s he hp hfailed => by
  have hhost : absorb s.nanBits ⟨.busw, 0⟩ s.host = ((s.host.note .commandFailure).warnInvalid s.nanBits).goTo .idle := by
    simp [absorb, hp]
  refine ⟨_, step_command_failed he (by rw [hp]; rfl) (c := 0x7866) rfl hfailed, rfl, fun ⟨_, _, hok⟩ => ?_, hhost⟩
  rw [hhost]
  exact Option.isSome_eq_false_iff.2 (Option.isNone_iff_eq_none.2 (hok.timer_eq_none (by simp [hp])))

/-- Settles O47: the read's error is acted on, and the words of the frame before are gone. -/
theorem failedReadPublishesMarkers : Obligations.FailedReadPublishesMarkers := fun s he hp hread => by
  obtain ⟨t, r, hs, hr, hhost, hw0, hw1⟩ := step_read_failed (n := 2) (.inr rfl) he (by rw [hp]; rfl) hread
  have habsorb : absorb s.nanBits r s.host = ((s.host.note (readLog r)).warnInvalid s.nanBits).goTo (afterRead s.host) := by
    simp [absorb, hp, hr]
  refine ⟨t, hs, hw0, hw1, ?_⟩
  rw [hhost, habsorb, ← afterRead_eq]
  rfl

/-! ### The wait for the completion -/

/-- Only the response to a poll changes the wait (R139). -/
theorem absorb_timer_eq {h : HostState} (nan : Req) (r : Response) (hp : h.phase ≠ .tickPoll) :
    (absorb nan r h).timer = h.timer := by
  cases hs : h.phase.inSetup with
  | true => rcases absorb_setup_cases hs nan r with ⟨_, _, e⟩ | ⟨_, e⟩ | ⟨_, _, e⟩ <;> rw [e] <;> rfl
  | false =>
    obtain ⟨_, _, _, _, hkept | ⟨hpoll, _⟩⟩ := absorb_task_frame hs nan r
    · exact hkept
    · exact absurd hpoll hp

/-- Settles O45: the poll's success sets the wait, and of all events only `elapse` starts the completion or shortens the
wait. -/
theorem completionWaits : Obligations.CompletionWaits := by
  refine ⟨fun s he hp hok => ?_, fun s ms left he htimer hle hidle => ?_, fun s t h hs ht => ?_,
    fun s t h left htimer ht hpoll => ?_⟩
  · have hhost : absorb s.nanBits ⟨.none, 0⟩ s.host = { s.host with timer := some completionDelay }.goTo .idle := by
      simp [absorb, hp]
    exact ⟨_, step_command_ok he (by rw [hp]; rfl) (c := 0x7866) rfl hok, hhost⟩
  · simp only [step_of_event he, runEvent, hostElapse, htimer, if_pos (And.intro hle hidle)]
  · rcases step_host_cases s t h with ⟨_, _, r, _, e⟩ | ⟨_, _, _, _, e⟩ | ⟨_, _, _, _, _, e⟩ |
      ⟨ms, left, he, htimer, ⟨hle, _, e⟩ | ⟨_, e⟩⟩ | ⟨_, e⟩ | ⟨e, _⟩
    · rw [e] at ht
      rcases absorb_phase_cases (h := s.host) (r := r) s.nanBits with hp | hp | ⟨_, _, hp⟩ | ⟨_, hp⟩ <;>
        simp [ht, Phase.inSetup] at hp
    · simp [e] at ht
    · rw [e, goTo_phase, afterWarmUp] at ht
      cases hw : s.host.warn <;> cases hsl : s.host.sleeps <;> simp [hw, hsl] at ht
    · exact ⟨ms, left, he, htimer, hle, by rw [e]⟩
    all_goals
      rw [e] at ht
      exact absurd ht hs
  · rcases step_host_cases s t h with ⟨_, _, r, _, e⟩ | ⟨_, _, _, _, e⟩ | ⟨_, _, _, _, hnone, _⟩ |
      ⟨ms, left, he, hleft, ⟨_, _, e⟩ | ⟨_, e⟩⟩ | ⟨_, e⟩ | ⟨e, _⟩
    · exact .inl (by rw [e, absorb_timer_eq s.nanBits r hpoll, htimer])
    · exact .inl (by rw [e, goTo_timer, htimer])
    · cases htimer.symm.trans hnone
    · exact absurd (by rw [e]) ht
    · cases htimer.symm.trans hleft
      exact .inr ⟨ms, he, by rw [e]⟩
    · exact .inl (by rw [e, note_timer, htimer])
    · exact .inl (by rw [e, htimer])

/-! ### Setup that fails -/

/-- A failed WakeUp or SoftReset of setup, for either value of the open parameter (R134). -/
theorem step_setup_command_failed {s : State} {sel : BitVec 3} {c : Word} {next : Phase} (hok : s.host.Ok)
    (he : s.script[s.index]? = some .proceed) (hsetup : s.host.phase.inSetup = true)
    (hw : hostRequest s.host.phase = some (encode (.cmd sel))) (hc : cmdCode sel = some c)
    (hfailed : writeAnswer s.bus = false)
    (habsorb : absorb s.nanBits ⟨.busw, 0⟩ s.host = absorbSetupCommand next ⟨.busw, 0⟩ s.host) :
    ∃ t, step s = .next t ∧ t.host.variant = none ∧ t.host.identity = none ∧
      t.host = if Config.setupWakeResetFatal = true then { s.host with failed := true, phase := .idle, log := t.host.log }
        else s.host.goTo next := by
  obtain ⟨⟨hv, hid, _⟩, _⟩ := hok.of_inSetup hsetup
  refine ⟨_, step_command_failed he hw hc hfailed, ?_⟩
  rw [habsorb, absorbSetupCommand]
  by_cases hfatal : Config.setupWakeResetFatal = true
  · rw [if_pos ⟨nofun, hfatal⟩, if_pos hfatal]
    exact ⟨hv, hid, rfl⟩
  · rw [if_neg (fun h => hfatal h.2), if_neg hfatal]
    exact ⟨hv, hid, rfl⟩

/-- Settles O50: the response's error fails setup, for WakeUp and SoftReset only if the open parameter says so; the invariant
has nothing stored while setup runs. -/
theorem setupFailures : Obligations.SetupFailures := by
  refine ⟨fun s ⟨_, _, hok⟩ he hcause => ?_, fun s ⟨_, _, hok⟩ he hphase hfailed => ?_⟩
  · rcases hcause with ⟨hp, hfailed⟩ | ⟨hp, hread⟩
    · obtain ⟨⟨hv, hid, _⟩, _⟩ := hok.of_inSetup (by rw [hp]; rfl)
      have hhost : absorb s.nanBits ⟨.busw, 0⟩ s.host = (s.host.note .commandFailure).failSetup := by simp [absorb, hp]
      refine ⟨_, step_command_failed he (by rw [hp]; rfl) (c := 0xEFC8) rfl hfailed, ?_⟩
      rw [hhost]
      exact ⟨hv, hid, rfl⟩
    · obtain ⟨⟨hv, hid, _⟩, _⟩ := hok.of_inSetup (by rw [hp]; rfl)
      obtain ⟨t, r, hs, hr, hhost, _⟩ := step_read_failed (n := 1) (.inl rfl) he (by rw [hp]; rfl) hread
      have habsorb : absorb s.nanBits r s.host = (s.host.note (readLog r)).failSetup := by simp [absorb, hp, hr]
      refine ⟨t, hs, ?_⟩
      rw [hhost, habsorb]
      exact ⟨hv, hid, rfl⟩
  · rcases hphase with hp | hp
    · obtain ⟨t, hs, hv, hid, hhost⟩ := step_setup_command_failed (sel := 1) (c := 0x3517) (next := .setupReset) hok he
        (by rw [hp]; rfl) (by rw [hp]; rfl) rfl hfailed (by simp [absorb, hp])
      exact ⟨t, hs, hv, hid, by rw [if_pos hp]; exact hhost⟩
    · obtain ⟨t, hs, hv, hid, hhost⟩ := step_setup_command_failed (sel := 3) (c := 0x805D) (next := .setupReadId) hok he
        (by rw [hp]; rfl) (by rw [hp]; rfl) rfl hfailed (by simp [absorb, hp])
      have hnext : s.host.phase ≠ .setupWake := by simp [hp]
      exact ⟨t, hs, hv, hid, by rw [if_neg hnext]; exact hhost⟩

/-! ### Several steps of a sequence -/

/-- A run takes its first step and then the others. -/
theorem run_succ {s t : State} (h : step s = .next t) (n : Nat) :
    Host.Core.run core (n + 1) s = Host.Core.run core n t := by
  have hstep : core.step s = .next t := h
  simp only [Host.Core.run, hstep]

theorem run_add_three {s t u v : State} (hst : step s = .next t) (htu : step t = .next u) (huv : step u = .next v) (n : Nat) :
    Host.Core.run core (n + 3) s = Host.Core.run core n v := by
  rw [run_succ hst (n + 2), run_succ htu (n + 1), run_succ huv n]

/-- A command of setup that the transport takes: one write, and the host goes on to the next step (R132). -/
theorem step_setup_command_ok {s : State} {sel : BitVec 3} {c : Word} {next : Phase} {as : List Bool}
    (he : s.script[s.index]? = some .proceed) (hw : hostRequest s.host.phase = some (encode (.cmd sel)))
    (hc : cmdCode sel = some c) (hans : s.bus.writeAnswers = true :: as)
    (habsorb : absorb s.nanBits ⟨.none, 0⟩ s.host = s.host.goTo next) :
    ∃ t, step s = .next t ∧ t.script = s.script ∧ t.index = s.index + 1 ∧ t.host = s.host.goTo next ∧
      t.bus.calls = s.bus.calls ++ [.write (split c).1 (split c).2] ∧ t.bus.writeAnswers = as ∧
      t.bus.readAnswers = s.bus.readAnswers :=
  ⟨_, step_command_ok he hw hc (writeAnswer_listed s.bus true as hans), rfl, rfl, habsorb, rfl, by
    rw [afterWrite_writeAnswers, hans]; rfl, rfl⟩

/-- The three commands of setup, taken by the transport (R132). -/
theorem setup_commands_ok {s : State} {as : List Bool} (hp : s.host.phase = .setupWake)
    (hscript : ∀ k < 3, s.script[s.index + k]? = some .proceed)
    (hans : s.bus.writeAnswers = true :: true :: true :: as) :
    ∃ t, (∀ n, Host.Core.run core (n + 3) s = Host.Core.run core n t) ∧ t.script = s.script ∧ t.index = s.index + 3 ∧
      t.host = s.host.goTo .setupRead ∧
      t.bus.calls = s.bus.calls ++ [.write 0x35 0x17, .write 0x80 0x5D, .write 0xEF 0xC8] ∧
      t.bus.readAnswers = s.bus.readAnswers := by
  obtain ⟨t, ht, hts, hti, hth, htc, htw, htr⟩ := step_setup_command_ok (s := s) (sel := 1) (c := 0x3517)
    (next := .setupReset) (hscript 0 (by decide)) (by rw [hp]; rfl) rfl hans (by simp [absorb, hp, absorbSetupCommand])
  obtain ⟨u, hu, hus, hui, huh, huc, huw, hur⟩ := step_setup_command_ok (s := t) (sel := 3) (c := 0x805D)
    (next := .setupReadId) (by rw [hts, hti]; exact hscript 1 (by decide)) (by rw [hth]; rfl) rfl htw
    (by simp [absorb, hth, absorbSetupCommand])
  obtain ⟨v, hv, hvs, hvi, hvh, hvc, _, hvr⟩ := step_setup_command_ok (s := u) (sel := 2) (c := 0xEFC8)
    (next := .setupRead) (by rw [hus, hts, hui, hti]; exact hscript 2 (by decide)) (by rw [huh]; rfl) rfl huw
    (by simp [absorb, huh])
  refine ⟨v, run_add_three ht hu hv, by rw [hvs, hus, hts], by rw [hvi, hui, hti], by rw [hvh, huh, hth]; rfl, ?_,
    by rw [hvr, hur, htr]⟩
  rw [hvc, huc, htc, List.append_assoc, List.append_assoc]
  rfl

/-- The host reads from `IDD`'s answer the variant the block decoded (R132). -/
theorem variantOfCode_iddData (w : Word) : variantOfCode ((iddData w).extractLsb' 0 2) = decodeId w := by
  rw [iddData, BitVec.extractLsb'_append_eq_right]
  cases decodeId w <;> rfl

/-- The last step of setup stores and logs the variant and the word that `GET` widened (R135). -/
theorem absorb_setupIdentity {h : HostState} {v : Variant} (hp : h.phase = .setupIdentity v) (nan : Req) (w : Word) :
    absorb nan ⟨.none, w.setWidth 32⟩ h =
      ({ h with variant := some v, identity := some w }.note (.identified v w)).goTo .idle := by
  have hword : (w.setWidth 32).extractLsb' 0 16 = w := by
    rw [← zero_append_eq_setWidth 16, BitVec.extractLsb'_append_eq_right]
  simp only [absorb, hp, hword]

/-- Reading the identity word, decoding it and fetching it: one read, and both are stored (R132, R135). -/
theorem setup_identity_ok {s : State} {hi lo : Byte} (hp : s.host.phase = .setupRead)
    (hscript : ∀ k < 3, s.script[s.index + k]? = some .proceed)
    (hread : readAnswer 3 s.bus = .ok [hi, lo, crc8 hi lo]) :
    ∃ t, Host.Core.run core 3 s = .next t ∧ t.bus.calls = s.bus.calls ++ [.read 3] ∧
      t.host = { s.host with
        variant := some (decodeId (hi ++ lo)), identity := some (hi ++ lo), phase := .idle
        log := s.host.log ++ [.identified (decodeId (hi ++ lo)) (hi ++ lo)] } := by
  obtain ⟨t, ht, hts, hti, hth, htw, htc⟩ : ∃ t, step s = .next t ∧ t.script = s.script ∧ t.index = s.index + 1 ∧
      t.host = s.host.goTo .setupDecode ∧ t.block.w0 = some (hi ++ lo) ∧ t.bus.calls = s.bus.calls ++ [.read 3] :=
    ⟨_, step_proceed_exec (hscript 0 (by decide)) (by rw [hp]; rfl) (readStoresFrame.1 _ _ _ _ hread rfl) rfl, rfl, rfl,
      by simp [absorb, hp], rfl, rfl⟩
  obtain ⟨u, hu, hus, hui, huh, huw, huc⟩ : ∃ u, step t = .next u ∧ u.script = t.script ∧ u.index = t.index + 1 ∧
      u.host = t.host.goTo (.setupIdentity (decodeId (hi ++ lo))) ∧ u.block.w0 = t.block.w0 ∧ u.bus = t.bus :=
    ⟨_, step_proceed_exec (i := .idd) (by rw [hts, hti]; exact hscript 1 (by decide)) (by rw [hth]; rfl)
      (congrArg Host.Outcome.next (decodeWith_eq _ _ _ _)) rfl, rfl, rfl,
      by simp [absorb, hth, htw, variantOfCode_iddData], rfl, rfl⟩
  have hget : regContent 0 u.block = some ((hi ++ lo).setWidth 32) := by simp [regContent, huw, htw]
  refine ⟨_, run_add_three ht hu (step_proceed_exec (i := .get 0) (by rw [hus, hts, hui, hti]; exact hscript 2 (by decide))
    (by rw [huh]; rfl) (exec_get_of_regContent rfl hget) rfl) 0, by rw [← htc, ← huc], ?_⟩
  exact (absorb_setupIdentity (by rw [huh]; rfl) _ _).trans (by rw [huh, hth]; rfl)

/-- The first three bytes of an answer of six. -/
theorem take_three_toList {α : Type} (v : Vector α 6) : v.toList.take 3 = [v[0], v[1], v[2]] := by
  refine List.ext_getElem (by simp) fun i _ hi => ?_
  match i, hi with
  | 0, _ | 1, _ | 2, _ => simp

/-- Settles O41: three commands and then three requests about the word read. -/
theorem setupIdentifiesDevice : Obligations.SetupIdentifiesDevice := fun s bytes as rs hp hscript hwrite hread hcrc => by
  obtain ⟨t, ht, hts, hti, hth, htc, htr⟩ := setup_commands_ok hp (fun k hk => hscript k (by omega)) hwrite
  have hanswer : readAnswer 3 t.bus = .ok [bytes[0], bytes[1], crc8 bytes[0] bytes[1]] := by
    rw [readAnswer_listed_ok 3 t.bus bytes rs (htr.trans hread), take_three_toList, hcrc]
  obtain ⟨u, hu, huc, huh⟩ := setup_identity_ok (s := t) (by rw [hth]; rfl)
    (fun k hk => by rw [hts, hti, Nat.add_assoc]; exact hscript (3 + k) (by omega)) hanswer
  refine ⟨u, (ht 3).trans hu, by rw [huh, hth]; rfl, ?_⟩
  rw [huc, htc, List.append_assoc]
  rfl

/-- The last conversion publishes both values and clears the warning (R141). -/
theorem absorb_convertHum {h : HostState} {temp : Req} (hp : h.phase = .convertHum temp) (nan : Req) (r : Response) :
    absorb nan r h = { h.publish temp r.data with warn := false }.goTo (afterRead h) := by
  simp only [absorb, hp]

/-- Settles O48: the read stores both words and its two conversions answer from them; the host publishes both at the end. -/
theorem goodReadPublishesValues : Obligations.GoodReadPublishesValues := fun s hi lo hi' lo' hp hscript hread => by
  obtain ⟨t, ht, hts, hti, hth, htw0, htw1⟩ : ∃ t, step s = .next t ∧ t.script = s.script ∧ t.index = s.index + 1 ∧
      t.host = s.host.goTo .convertTemp ∧ t.block.w0 = some (hi ++ lo) ∧ t.block.w1 = some (hi' ++ lo') :=
    ⟨_, step_proceed_exec (hscript 0 (by decide)) (by rw [hp]; rfl) (readStoresFrame.2 _ _ _ _ _ _ _ hread rfl rfl) rfl, rfl,
      rfl, by simp [absorb, hp], rfl, rfl⟩
  obtain ⟨u, hu, hus, hui, huh, huw1⟩ : ∃ u, step t = .next u ∧ u.script = t.script ∧ u.index = t.index + 1 ∧
      u.host = t.host.goTo (.convertHum (cvtData (hi ++ lo))) ∧ u.block.w1 = t.block.w1 :=
    ⟨_, step_proceed_exec (i := .cvt) (by rw [hts, hti]; exact hscript 1 (by decide)) (by rw [hth]; rfl)
      (congrArg Host.Outcome.next (decodeWith_eq _ _ _ _)) rfl, rfl, rfl, by simp [absorb, hth, htw0], rfl⟩
  refine ⟨_, run_add_three ht hu (step_proceed_exec (i := .cvh) (by rw [hus, hts, hui, hti]; exact hscript 2 (by decide))
    (by rw [huh]; rfl) (congrArg Host.Outcome.next (decodeWith_eq _ _ _ _)) rfl) 0, ?_⟩
  rw [← afterRead_eq, huw1, htw1]
  exact (absorb_convertHum (by rw [huh]; rfl) _ _).trans (by rw [huh, hth]; rfl)

end Sys2Proof.Machine
end
